-- ==== Sys2Proof/Word.lean ====
section
/-! DEFINITION. The word types of DNSC: bytes, byte strings and the unsigned 16-bit and 32-bit fields
(spec/00_scope.md R14, R15). -/

namespace Sys2Proof

/-- An 8-bit unsigned value 0..255 (spec/00_scope.md R14). -/
abbrev Byte := BitVec 8

/-- A finite list of bytes (spec/00_scope.md R15). -/
abbrev Bytes := List Byte

/-- An unsigned 16-bit field. -/
abbrev U16 := BitVec 16

/-- An unsigned 32-bit field, and the width of every register (spec/10_state.md section 4). -/
abbrev U32 := BitVec 32

end Sys2Proof
end

