-- ==== Sys2Proof/Syntax.lean ====
section
/-! DEFINITION. The decode points of DNSC, one constructor for each row of spec/opcode_table.json
(spec/00_scope.md R19), and the coded words they are decoded from. -/

namespace Sys2Proof

/-- The instructions (spec/00_scope.md R19). A field holds exactly the bits its row leaves open. -/
inductive Instr where
  /-- NAME_TERM, TAG8 `00000000` (spec/41_name_codec.md R152). -/
  | nameTerm
  /-- NAME_LABEL, TAG8 `00LLLLLL` with L not 0 (R153). -/
  | nameLabel (len : BitVec 6)
  /-- NAME_EXT_01, TAG8 `01LLLLLL` (R154). -/
  | nameExt01 (low : BitVec 6)
  /-- NAME_EXT_10, TAG8 `10LLLLLL` (R154). -/
  | nameExt10 (low : BitVec 6)
  /-- NAME_PTR, TAG16 `11oooooooooooooo` (R155). -/
  | namePtr (off : BitVec 14)
  /-- RD_A, RTYPE16 `0x0001` (spec/42_rdata_codec.md R181). -/
  | rdA
  /-- RD_CNAME, RTYPE16 `0x0005` (R182). -/
  | rdCname
  /-- RD_OPAQUE, RTYPE16, every TYPE other than 1 and 5 (R183). -/
  | rdOpaque (rtype : U16)
  /-- CMD_NOP, CMD32 opcode 0x00; `x` is bits 31:8, ignored (spec/45_host_commands.md R241). -/
  | cmdNop (x : BitVec 24)
  /-- CMD_DECODE, CMD32 opcode 0x01 (R242). -/
  | cmdDecode (x : BitVec 24)
  /-- CMD_ENCODE, CMD32 opcode 0x02 (R243). -/
  | cmdEncode (x : BitVec 24)
  /-- CMD_ILLEGAL, CMD32, every opcode other than 0x00, 0x01, 0x02 (R244). -/
  | cmdIllegal (x : BitVec 24) (opcode : Byte)
deriving DecidableEq, Repr

/-- A coded object DNSC decodes, by the format of its row: the bytes of a name element (TAG8, TAG16), a
record TYPE (RTYPE16), or the 32-bit value written to CMD (CMD32). The bytes of a CMD word have no order
(spec/20_memory.md R70), so it is a value. -/
inductive Code where
  | tag (bytes : Bytes)
  | rtype (value : U16)
  | cmd (value : U32)
deriving DecidableEq, Repr

/-- Why a coded object decodes to nothing. Only a byte string that ends too early does. -/
inductive DecodeError where
  /-- There is no tag byte. -/
  | noTag
  /-- The tag is a pointer's first byte and there is no second (spec/41_name_codec.md R155). -/
  | noSecondByte
deriving DecidableEq, Repr

end Sys2Proof
end

