-- ==== Sys2Proof/WellFormed.lean ====
section
/-! DEFINITION. Which instructions have an encoding: the operand values that an earlier row of the table
takes are excluded. -/

namespace Sys2Proof

/-- An instruction that its own row of spec/opcode_table.json decodes to. L = 0 is NAME_TERM
(spec/41_name_codec.md R153), TYPE 1 and 5 are RD_A and RD_CNAME (spec/42_rdata_codec.md R183), opcodes 0,
1 and 2 are NOP, DECODE and ENCODE (spec/45_host_commands.md R244). -/
def Instr.wellFormed : Instr → Bool
  | .nameTerm => true
  | .nameLabel len => len != 0#6
  | .nameExt01 _ => true
  | .nameExt10 _ => true
  | .namePtr _ => true
  | .rdA => true
  | .rdCname => true
  | .rdOpaque t => t != 1#16 && t != 5#16
  | .cmdNop _ => true
  | .cmdDecode _ => true
  | .cmdEncode _ => true
  | .cmdIllegal _ o => o != 0#8 && o != 1#8 && o != 2#8

end Sys2Proof
end

