-- ==== Sys2Proof/Decode.lean ====
section
/-! DEFINITION. Field assembly, the decoder of the three formats of spec/opcode_table.json, and the encoder
written from the same table. -/

namespace Sys2Proof

/-- `u16(b0, b1) = b0*256 + b1`: most significant byte first (spec/00_scope.md R15, spec/20_memory.md R60). -/
def u16 (b0 b1 : Byte) : U16 := b0 ++ b1

/-- `u32(b0, b1, b2, b3)`, most significant byte first (spec/00_scope.md R15). -/
def u32 (b0 b1 b2 b3 : Byte) : U32 := u16 b0 b1 ++ u16 b2 b3

/-- `be16(v) = [v[15:8], v[7:0]]` (spec/00_scope.md R15). -/
def be16 (v : U16) : Bytes := [v.extractLsb' 8 8, v.extractLsb' 0 8]

/-- `be32(v)`, four bytes, most significant first (spec/00_scope.md R15). -/
def be32 (v : U32) : Bytes :=
  [v.extractLsb' 24 8, v.extractLsb' 16 8, v.extractLsb' 8 8, v.extractLsb' 0 8]

/-- The tag classes of one byte, rows tried by priority (spec/30_encoding.md R95): `none` for a pointer's
first byte, whose instruction needs a second byte. -/
def decodeTagByte (t : Byte) : Option Instr :=
  if t &&& 0xFF#8 = 0x00#8 then some .nameTerm
  else if t &&& 0xC0#8 = 0x00#8 then some (.nameLabel (t.extractLsb' 0 6))
  else if t &&& 0xC0#8 = 0x40#8 then some (.nameExt01 (t.extractLsb' 0 6))
  else if t &&& 0xC0#8 = 0x80#8 then some (.nameExt10 (t.extractLsb' 0 6))
  else none

/-- A pointer element: OFFSET is bits 13:0 of the big-endian value of its two bytes
(spec/30_encoding.md R97, R102). -/
def decodePointer (t b1 : Byte) : Instr := .namePtr ((u16 t b1).extractLsb' 0 14)

/-- A name element from its bytes; what follows the element is not read. -/
def decodeTag : Bytes → Except DecodeError Instr
  | [] => .error .noTag
  | t :: rest =>
    match decodeTagByte t, rest with
    | some i, _ => .ok i
    | none, [] => .error .noSecondByte
    | none, b1 :: _ => .ok (decodePointer t b1)

/-- The record-type dispatch (spec/30_encoding.md R109): it reads TYPE only. -/
def decodeRtype (t : U16) : Instr :=
  if t = 0x0001#16 then .rdA
  else if t = 0x0005#16 then .rdCname
  else .rdOpaque t

/-- The command selected by a write of `v` to CMD: bits 7:0 select, bits 31:8 are ignored
(spec/30_encoding.md R105, R106). -/
def decodeCmd (v : U32) : Instr :=
  let x := v.extractLsb' 8 24
  let o := v.extractLsb' 0 8
  if o = 0x00#8 then .cmdNop x
  else if o = 0x01#8 then .cmdDecode x
  else if o = 0x02#8 then .cmdEncode x
  else .cmdIllegal x o

/-- The decoder, total on every coded object. -/
def decode : Code → Except DecodeError Instr
  | .tag bs => decodeTag bs
  | .rtype t => .ok (decodeRtype t)
  | .cmd v => .ok (decodeCmd v)

/-- The coded object of an instruction, from the encodings of spec/opcode_table.json. A label's body is
not part of its element's coded word: it is data the label step reads. -/
def encode : Instr → Code
  | .nameTerm => .tag [0x00#8]
  | .nameLabel len => .tag [0b00#2 ++ len]
  | .nameExt01 low => .tag [0b01#2 ++ low]
  | .nameExt10 low => .tag [0b10#2 ++ low]
  | .namePtr off => .tag (be16 (0b11#2 ++ off))
  | .rdA => .rtype 0x0001#16
  | .rdCname => .rtype 0x0005#16
  | .rdOpaque t => .rtype t
  | .cmdNop x => .cmd (x ++ 0x00#8)
  | .cmdDecode x => .cmd (x ++ 0x01#8)
  | .cmdEncode x => .cmd (x ++ 0x02#8)
  | .cmdIllegal x o => .cmd (x ++ o)

/-- The coded object that `nbits` bits `w` of the opcode table stand for. A 16-bit word is a pointer when
its top two bits are 11 and a record TYPE otherwise: the table gives both formats 16 bits (log 9). The
bits above an 8-bit word are 0: the tag is followed by zero bytes. -/
def tableCode (nbits w : Nat) : Option Code :=
  if nbits = 8 then some (.tag [BitVec.ofNat 8 w, 0x00#8])
  else if nbits = 16 then
    let v := BitVec.ofNat 16 w
    if v &&& 0xC000#16 = 0xC000#16 then some (.tag (be16 v)) else some (.rtype v)
  else if nbits = 32 then some (.cmd (BitVec.ofNat 32 w))
  else none

/-- The instruction the decoder reads from a word of spec/opcode_table.json. -/
def decodeTableWord (nbits w : Nat) : Option Instr :=
  match tableCode nbits w with
  | none => none
  | some c =>
    match decode c with
    | .ok i => some i
    | .error _ => none

end Sys2Proof
end

