-- ==== Sys2Proof/Config.lean ====
section
/-! DEFINITION. The instance's parameters (spec/00_scope.md R5 to R12). The spec leaves each of them open
and has the model take it as an argument; no result of an instruction is left undefined, so there is no
free value here. -/

namespace Sys2Proof

/-- EXT_TAG_POLICY (spec/00_scope.md R8). -/
inductive ExtTagPolicy where
  | reject
  | asLength
deriving DecidableEq, Repr

/-- LABEL_ENC_MAX, one of 255 or 63 (spec/00_scope.md R9). -/
inductive LabelEncMax where
  | max255
  | max63
deriving DecidableEq, Repr

/-- The parameters of one instance. A capacity `none` is unbounded (spec/00_scope.md section 3). -/
structure Params where
  /-- IBUF_CAP (R5). -/
  ibufCap : Nat
  /-- OBUF_CAP (R6). -/
  obufCap : Nat
  /-- PTR_LIMIT (R7). -/
  ptrLimit : Nat
  /-- EXT_TAG_POLICY (R8). -/
  extTagPolicy : ExtTagPolicy
  /-- LABEL_ENC_MAX (R9). -/
  labelEncMax : LabelEncMax
  /-- NAME_CAP (R10). -/
  nameCap : Option Nat
  /-- REC_CAP (R11). -/
  recCap : Option Nat
  /-- RDATA_CAP (R12). -/
  rdataCap : Option Nat
deriving DecidableEq, Repr

/-- A bounded parameter lies in a range; an unbounded one lies in every range. -/
def capWithin (lo : Nat) (hi : Option Nat) : Option Nat → Bool
  | none => true
  | some n => decide (lo ≤ n) && (match hi with | none => true | some h => decide (n ≤ h))

/-- The ranges of spec/00_scope.md R5 to R12. -/
def Params.legal (p : Params) : Bool :=
  decide (12 ≤ p.ibufCap) && decide (p.ibufCap ≤ 65535) &&
  decide (12 ≤ p.obufCap) && decide (p.obufCap ≤ 65535) &&
  decide (p.ptrLimit ≤ 65535) &&
  capWithin 255 none p.nameCap && capWithin 1 (some 65535) p.recCap && capWithin 4 none p.rdataCap

/-- The parameters of `State.reset`: the spec's defaults and reference values (spec/92_eei_decisions.md
section 1). DESIGN CHOICE (log 3), unsafe: IBUF_CAP and OBUF_CAP have no default; 512 is what the test vectors
of spec/95_test_vectors.md assume. -/
def Params.reference : Params where
  ibufCap := 512
  obufCap := 512
  ptrLimit := 127
  extTagPolicy := .reject
  labelEncMax := .max255
  nameCap := none
  recCap := none
  rdataCap := none

end Sys2Proof
end

