-- ==== Sys2Proof/Machine/Message.lean ====
section
/-! DEFINITION. The data model of a Message (spec/10_state.md R20 to R25), the encoded length of a name, and
what fits the message store's capacities. -/

namespace Sys2Proof.Machine

/-- A label: opaque bytes (spec/10_state.md R20). -/
abbrev Label := Bytes

/-- A name: labels in wire order; no labels is the root (spec/10_state.md R21). -/
abbrev DomainName := List Label

/-- A question record (spec/10_state.md R22). -/
structure QuestionRecord where
  name : DomainName
  qtype : U16
  qclass : U16
deriving DecidableEq, Repr

/-- Record data: a closed sum of three variants (spec/10_state.md R24). -/
inductive RData where
  | cname (name : DomainName)
  | a (bytes : Bytes)
  | opaq (bytes : Bytes)
deriving DecidableEq, Repr

/-- A resource record (spec/10_state.md R23). RDLENGTH is not a field of it. -/
structure ResourceRecord where
  name : DomainName
  rtype : U16
  rclass : U16
  ttl : U32
  rdata : RData
deriving DecidableEq, Repr

/-- A message (spec/10_state.md R25). The four counts are not fields of it (R26). -/
structure Message where
  id : U16
  flags : U16
  questions : List QuestionRecord
  answers : List ResourceRecord
  authority : List ResourceRecord
  additional : List ResourceRecord
deriving DecidableEq, Repr

/-- A message with nothing in it: what DECODE starts building from. -/
def Message.blank : Message where
  id := 0#16
  flags := 0#16
  questions := []
  answers := []
  authority := []
  additional := []

/-- `enclen(n) = 1 + sum of (1 + |l|)`: the uncompressed encoded length (spec/10_state.md R21). -/
def enclen : DomainName → Nat
  | [] => 1
  | l :: n => 1 + l.length + enclen n

/-- A quantity is within a capacity; unbounded capacities hold everything (spec/00_scope.md section 3). -/
def within (n : Nat) : Option Nat → Bool
  | none => true
  | some cap => decide (n ≤ cap)

/-- Record data within NAME_CAP (a Cname name) and RDATA_CAP (an A or Opaque byte string). -/
def rdataFits (p : Params) : RData → Bool
  | .cname n => within (enclen n) p.nameCap
  | .a b => within b.length p.rdataCap
  | .opaq b => within b.length p.rdataCap

/-- A resource record within NAME_CAP and RDATA_CAP. -/
def recordFits (p : Params) (r : ResourceRecord) : Bool :=
  within (enclen r.name) p.nameCap && rdataFits p r.rdata

/-- A message within NAME_CAP, REC_CAP (each section separately, spec/43_message_decoder.md R205) and
RDATA_CAP: what a host write of the store must respect (spec/10_state.md R30). -/
def messageFits (p : Params) (m : Message) : Bool :=
  within m.questions.length p.recCap && within m.answers.length p.recCap &&
  within m.authority.length p.recCap && within m.additional.length p.recCap &&
  m.questions.all (fun q => within (enclen q.name) p.nameCap) &&
  m.answers.all (recordFits p) && m.authority.all (recordFits p) && m.additional.all (recordFits p)

end Sys2Proof.Machine
end

