-- ==== Sys2Proof/Machine/State.lean ====
section
/-! DEFINITION. The state of DNSC (spec/10_state.md), the reasons a step can stop, and the state after
reset. -/

namespace Sys2Proof.Machine

/-- The model faults of spec/60_exceptions.md R265. A step that meets one ends the run: nothing after it
clears the fault (DEDUCED, log 5). Both are safe: they make claims about such a run unprovable. -/
inductive Fault where
  /-- Raised by DNSC or the host when it reads an IBUF or OBUF byte that holds no value, or MSG with no value,
  and by a host read of OBUF, OUT_LEN, ERR_POS or MSG while BUSY. Safe: the hardware returns whatever its
  storage holds. -/
  | uninitRead
  /-- Raised by a host write of an IBUF byte or of MSG while BUSY. Safe: the hardware's outcome is not
  specified. -/
  | hostRace
deriving DecidableEq, Repr

/-- Why a step has no meaning. -/
inductive Refusal where
  /-- Raised by an arm of `exec` for an instruction that has no meaning yet. Safe. No arm is one. -/
  | notModelled (mnemonic : String)
  /-- Raised by a bus access of a width or alignment that spec/20_memory.md R70 does not define. Safe: the spec
  has a model refuse it. -/
  | badAccess
  /-- Raised by a host write of MSG beyond NAME_CAP, REC_CAP or RDATA_CAP (spec/10_state.md R30). Safe: the spec
  has a model refuse it. -/
  | overCapacity
deriving DecidableEq, Repr

/-- PHASE (spec/10_state.md R47). -/
inductive Phase where
  | idle
  | busy
deriving DecidableEq, Repr

/-- SECT, the section being walked (spec/10_state.md R45). -/
inductive Sect where
  | header
  | question
  | answer
  | authority
  | additional
deriving DecidableEq, Repr

/-- The six fields of the header (spec/30_encoding.md R92). -/
inductive HeaderField where
  | id
  | flags
  | qd
  | an
  | ns
  | ar
deriving DecidableEq, Repr

/-- Which step of the running command's procedure comes next. The model's own field: the spec gives the
procedures as pseudocode (log 6). -/
inductive Ctl where
  /-- DECODE accepted: the IBUF_CAP check (spec/45_host_commands.md R242). -/
  | decodeStart
  /-- DEC_HEADER reads this field (spec/43_message_decoder.md R201). -/
  | header (f : HeaderField)
  /-- DEC_SECTION at the head of its loop (R204). -/
  | walk
  /-- DEC_NAME at the head of its loop: the decode point of a name element (spec/41_name_codec.md R150). -/
  | name
  /-- DEC_QUESTION reads QTYPE (spec/43_message_decoder.md R202). -/
  | qtype
  /-- DEC_QUESTION reads QCLASS. -/
  | qclass
  /-- DEC_RR reads TYPE (R203). -/
  | rtype
  /-- DEC_RR reads CLASS. -/
  | rclass
  /-- DEC_RR reads TTL. -/
  | ttl
  /-- DEC_RR reads RDLENGTH. -/
  | rdlength
  /-- DEC_RDATA: the decode point of the record type (spec/42_rdata_codec.md R180). -/
  | rdata
  /-- The walk is over: DECODE completes (spec/45_host_commands.md R242). -/
  | decodeDone
  /-- ENCODE accepted: CHECK_COUNTS and ENC_HEADER (spec/44_message_encoder.md R221, R222). -/
  | encodeStart
  /-- ENC_CORE at its next record (R220). -/
  | encodeRecord
  /-- All records emitted: ENCODE completes (spec/45_host_commands.md R243). -/
  | encodeDone
deriving DecidableEq, Repr

/-- Which procedure called DEC_NAME and takes its result: DEC_QUESTION or DEC_RR for an owner name, the
RD_CNAME arm for record data. The model's own field (log 6). -/
inductive NameUse where
  | owner
  | cname
deriving DecidableEq, Repr

/-- The name decoder's registers P, END, HOPS and ACC (spec/10_state.md R44). -/
structure NameRegs where
  /-- P, the segment cursor. -/
  p : Nat
  /-- END, ⊥ or the offset just past the name's own bytes. -/
  fin : Option Nat
  /-- HOPS, pointers followed so far. -/
  hops : Nat
  /-- ACC, the labels accumulated so far. -/
  acc : DomainName
deriving DecidableEq, Repr

/-- The fields of the record being decoded, the local values of DEC_QUESTION and DEC_RR
(spec/43_message_decoder.md R202, R203). -/
structure RecordRegs where
  /-- `n`, the owner name. -/
  name : DomainName
  /-- `qt` or `t`. -/
  rtype : U16
  /-- `qc` or `c`. -/
  rclass : U16
  /-- `ttl`. -/
  ttl : U32
  /-- `rl`, RDLENGTH. -/
  rdlen : U16
deriving DecidableEq, Repr

/-- The width of a bus access (spec/20_memory.md R70). -/
inductive Width where
  | w8
  | w16
  | w32
deriving DecidableEq, Repr

/-- A bus access of the host in the 18-bit address space (spec/20_memory.md R69). A write carries its data in
the low bits of `data`. -/
inductive Access where
  | read (addr : BitVec 18) (width : Width)
  | write (addr : BitVec 18) (width : Width) (data : U32)
deriving DecidableEq, Repr

/-- One entry of the host's remaining program. What the outside does, as data the step reads (log 1, log 2). -/
inductive HostEvent where
  /-- A bus read or write: `wr`, `rd`, `ib`, `ob`, `cmd` of spec/30_encoding.md R113. -/
  | bus (access : Access)
  /-- `msg_read()` (spec/20_memory.md R72). -/
  | msgRead
  /-- `msg_write(m)` (spec/20_memory.md R72). -/
  | msgWrite (m : Message)
  /-- `wait` of spec/30_encoding.md R113: DNSC has the turn until BUSY is 0, then STATUS is read. -/
  | wait
  /-- The host does nothing for one step: DNSC has the turn. -/
  | pass
  /-- The platform raises reset (spec/70_reset_and_hazards.md R290). -/
  | reset
deriving DecidableEq, Repr

/-- What a host read returned. -/
inductive Seen where
  | word (v : U32)
  | byte (b : Byte)
  | message (m : Message)
deriving DecidableEq, Repr

/-- A buffer's bytes: the written ones by offset, offsets strictly rising. An offset that is not listed
holds ⊥ (spec/10_state.md R28, R29). -/
abbrev Memory := List Host.Cell

/-- The canonical form: offsets strictly rising. No entry can equal what an unlisted offset reads as, since that
is no value at all. -/
abbrev Memory.wf (m : Memory) : Prop := m.Pairwise (fun c d => c.1 < d.1)

/-- The state of one DNSC instance and of the host that drives it (INVENTORY.md, State). -/
structure State where
  /-- The instance's parameters: no step changes them (spec/70_reset_and_hazards.md R290; log 3). -/
  params : Params
  /-- IBUF (spec/10_state.md R28). -/
  ibuf : Memory
  /-- OBUF (R29). -/
  obuf : Memory
  /-- MSG; `none` is ⊥ (R30). While a DECODE runs it keeps its value (DESIGN CHOICE, log 22). -/
  msg : Option Message
  /-- STATUS (R33). -/
  status : U32
  /-- IN_LEN bits 15:0 (R34). -/
  inLen : U16
  /-- OUT_LEN bits 15:0 (R35). -/
  outLen : U16
  /-- ERR_POS bits 15:0 (R36). -/
  errPos : U16
  /-- PHASE (R47). -/
  phase : Phase
  /-- CUR, the scan cursor (R43). -/
  cur : Nat
  /-- P, END, HOPS, ACC (R44). -/
  name : NameRegs
  /-- LEN, IN_LEN latched at acceptance (R45). -/
  len : Nat
  /-- QD (R45). -/
  qd : U16
  /-- AN (R45). -/
  an : U16
  /-- NS (R45). -/
  ns : U16
  /-- AR (R45). -/
  ar : U16
  /-- SECT (R45). ENCODE keeps its place in the section lists here too (DESIGN CHOICE, log 19). -/
  sect : Sect
  /-- IDX, the index of the record in SECT (R45); ENCODE's too (DESIGN CHOICE, log 19). -/
  idx : Nat
  /-- OPOS, the bytes of output produced so far (R46). -/
  opos : Nat
  /-- The step of the running procedure that comes next (model's own; log 6). -/
  ctl : Ctl
  /-- Who takes DEC_NAME's result (model's own; log 6). -/
  use : NameUse
  /-- The record being decoded (model's own; log 6). -/
  recd : RecordRegs
  /-- The message being built by DECODE_MSG (model's own; log 6). -/
  draft : Message
  /-- The output ENC_CORE has produced so far (model's own; log 7). -/
  out : Bytes
  /-- The host's remaining program (model's own; log 1). -/
  host : List HostEvent
  /-- What the host's reads returned, oldest first (model's own; log 1). -/
  seen : List Seen
deriving DecidableEq, Repr

/-- The name decoder's registers before their first use. DESIGN CHOICE (log 4), unsafe. -/
def NameRegs.initial : NameRegs where
  p := 0
  fin := none
  hops := 0
  acc := []

/-- The record registers before their first use. DESIGN CHOICE (log 4), unsafe. -/
def RecordRegs.initial : RecordRegs where
  name := []
  rtype := 0#16
  rclass := 0#16
  ttl := 0#32
  rdlen := 0#16

/-- The state after reset of an instance with parameters `p` (spec/10_state.md R51). The registers from `cur` to
`out` are unspecified there: DESIGN CHOICE (log 4), unsafe. -/
def State.resetWith (p : Params) : State where
  params := p
  ibuf := []
  obuf := []
  msg := none
  status := 0#32
  inLen := 0#16
  outLen := 0#16
  errPos := 0#16
  phase := .idle
  cur := 0
  name := NameRegs.initial
  len := 0
  qd := 0#16
  an := 0#16
  ns := 0#16
  ar := 0#16
  sect := .header
  idx := 0
  opos := 0
  ctl := .decodeStart
  use := .owner
  recd := RecordRegs.initial
  draft := Message.blank
  out := []
  host := []
  seen := []

/-- The machine right after reset, with the reference parameters (log 3). -/
def State.reset : State := State.resetWith Params.reference

end Sys2Proof.Machine
end

