-- ==== Sys2Proof/Machine/Flags.lean ====
section
/-! DEFINITION. Error kinds, reasons and positions with their numbers (spec/60_exceptions.md R260 to R264), and
the words of STATUS and PARAM1 (spec/10_state.md R33, R38). -/

namespace Sys2Proof.Machine

/-- MALFORMED_MESSAGE reasons (spec/60_exceptions.md R261). -/
inductive MalReason where
  | hdrTrunc
  | fieldTrunc
  | sliceTrunc
  | nameUnterm
  | ptrRange
  | ptrLimit
  | extTag
deriving DecidableEq, Repr

/-- INVALID_NAME reasons (spec/60_exceptions.md R262). -/
inductive NameReason where
  | labelTooLong
deriving DecidableEq, Repr

/-- CAPACITY reasons (spec/60_exceptions.md R263). -/
inductive CapReason where
  | ibuf
  | name
  | records
  | rdata
  | count16
  | rdlen16
  | obuf
deriving DecidableEq, Repr

/-- The error a command ends with: kind, reason and position (spec/60_exceptions.md R260). -/
inductive Err where
  | malformed (why : MalReason) (pos : Nat)
  | invalidName (why : NameReason) (pos : Nat)
  | capacity (why : CapReason) (pos : Nat)
  | illegalCmd (opcode : Byte)
deriving DecidableEq, Repr

/-- The codes of spec/60_exceptions.md R261. -/
def malCode : MalReason → Byte
  | .hdrTrunc => 0x01#8
  | .fieldTrunc => 0x02#8
  | .sliceTrunc => 0x03#8
  | .nameUnterm => 0x04#8
  | .ptrRange => 0x05#8
  | .ptrLimit => 0x06#8
  | .extTag => 0x07#8

/-- The code of spec/60_exceptions.md R262. -/
def nameCode : NameReason → Byte
  | .labelTooLong => 0x01#8

/-- The codes of spec/60_exceptions.md R263. -/
def capCode : CapReason → Byte
  | .ibuf => 0x01#8
  | .name => 0x02#8
  | .records => 0x03#8
  | .rdata => 0x04#8
  | .count16 => 0x05#8
  | .rdlen16 => 0x06#8
  | .obuf => 0x07#8

/-- ERR_KIND (spec/60_exceptions.md R260). -/
def errKind : Err → BitVec 4
  | .malformed _ _ => 1#4
  | .invalidName _ _ => 2#4
  | .capacity _ _ => 3#4
  | .illegalCmd _ => 4#4

/-- ERR_REASON (spec/60_exceptions.md R261 to R264): the opcode for an illegal command. -/
def errReason : Err → Byte
  | .malformed why _ => malCode why
  | .invalidName why _ => nameCode why
  | .capacity why _ => capCode why
  | .illegalCmd o => o

/-- ERR_POS (spec/60_exceptions.md R266): 0 for an illegal command. -/
def errPosition : Err → Nat
  | .malformed _ pos => pos
  | .invalidName _ pos => pos
  | .capacity _ pos => pos
  | .illegalCmd _ => 0

/-- The STATUS word (spec/10_state.md R33): BUSY 0, DONE 1, ERR 2, bit 3 zero, ERR_KIND 7:4, ERR_REASON 15:8,
bits 31:16 zero. -/
def statusWord (busy done err : Bool) (kind : BitVec 4) (reason : Byte) : U32 :=
  0#16 ++ reason ++ kind ++ 0#1 ++ BitVec.ofBool err ++ BitVec.ofBool done ++ BitVec.ofBool busy

/-- STATUS while a command runs (spec/45_host_commands.md R242, acceptance). -/
def statusRunning : U32 := statusWord true false false 0#4 0#8

/-- STATUS after a command succeeded. -/
def statusSuccess : U32 := statusWord false true false 0#4 0#8

/-- STATUS after a command failed (spec/60_exceptions.md R269). -/
def statusFailure (e : Err) : U32 := statusWord false true true (errKind e) (errReason e)

/-- STATUS.BUSY. -/
def busyBit (v : U32) : Bool := v.getLsbD 0

/-- STATUS.DONE. -/
def doneBit (v : U32) : Bool := v.getLsbD 1

/-- STATUS.ERR. -/
def errBit (v : U32) : Bool := v.getLsbD 2

/-- STATUS.ERR_KIND. -/
def kindField (v : U32) : BitVec 4 := v.extractLsb' 4 4

/-- STATUS.ERR_REASON. -/
def reasonField (v : U32) : Byte := v.extractLsb' 8 8

/-- PARAM1 (spec/10_state.md R38): bit 0 EXT_AS_LENGTH, bit 1 LABEL63, the rest 0. -/
def param1Word (p : Params) : U32 :=
  0#30 ++ BitVec.ofBool (decide (p.labelEncMax = .max63)) ++ BitVec.ofBool (decide (p.extTagPolicy = .asLength))

/-- A register whose bits 15:0 hold a value and whose bits 31:16 read 0. -/
def lowHalf (v : U16) : U32 := 0#16 ++ v

end Sys2Proof.Machine
end

