-- ==== Sys2Proof/Machine/Ops.lean ====
section
/-! DEFINITION. The named operations over memory and registers: reading and writing a buffer, accepting a
command, entering an error (the machine's one exception entry) and completing a command. -/

namespace Sys2Proof.Machine

/-- One step of DNSC or of the host. -/
abbrev Result := Host.Outcome State Fault Refusal

/-- The byte a buffer holds at an offset; `none` is ⊥ (spec/10_state.md R28). -/
def Memory.read : Memory → Nat → Option Byte
  | [], _ => none
  | (b, v) :: m, a => if b = a then some v else Memory.read m a

/-- Write one byte, keeping the offsets rising. -/
def Memory.write : Memory → Nat → Byte → Memory
  | [], a, v => [(a, v)]
  | (b, w) :: m, a, v =>
    if a < b then (a, v) :: (b, w) :: m
    else if a = b then (a, v) :: m
    else (b, w) :: Memory.write m a v

/-- Write a byte string at consecutive offsets from `a`. -/
def Memory.writeBytes : Memory → Nat → Bytes → Memory
  | m, _, [] => m
  | m, a, v :: vs => Memory.writeBytes (Memory.write m a v) (a + 1) vs

/-- The command an error or a completion belongs to. -/
inductive Job where
  | decode
  | encode
  | illegal
deriving DecidableEq, Repr

/-- What a failed command drops (spec/60_exceptions.md R269): DECODE leaves MSG ⊥; ENCODE leaves every OBUF byte ⊥
and OUT_LEN 0 (spec/20_memory.md R68); an illegal command leaves all of them (spec/45_host_commands.md R244). -/
def State.dropResults (s : State) : Job → State
  | .decode => { s with msg := none }
  | .encode => { s with obuf := [], outLen := 0#16 }
  | .illegal => s

/-- ERROR ENTRY, the machine's exception entry (spec/60_exceptions.md R269): STATUS gets DONE, ERR, the kind and
the reason, ERR_POS the position, the results of the command are dropped, PHASE returns to IDLE. Nothing else
is saved; there is no vector and no mode change. The internal registers keep the values they had before the step that
raised (DESIGN CHOICE, log 20). -/
def State.raise (s : State) (job : Job) (e : Err) : State :=
  { s.dropResults job with
    status := statusFailure e
    errPos := BitVec.ofNat 16 (errPosition e)
    phase := .idle }

/-- There is no return from an error (spec/60_exceptions.md R271): the next accepted command clears STATUS. This
is the part of acceptance that DECODE and ENCODE share (spec/45_host_commands.md R242, R243). -/
def State.acceptCommand (s : State) : State :=
  { s with phase := .busy, status := statusRunning }

/-- Acceptance of DECODE: LEN is latched from IN_LEN, CUR is set to 0 (spec/45_host_commands.md R242,
spec/10_state.md R43, R45). MSG keeps its value until completion (DESIGN CHOICE, log 22). -/
def State.acceptDecode (s : State) : State :=
  { s.acceptCommand with
    len := s.inLen.toNat
    cur := 0
    sect := .header
    idx := 0
    draft := Message.blank
    ctl := .decodeStart }

/-- Acceptance of ENCODE (spec/45_host_commands.md R243). -/
def State.acceptEncode (s : State) : State :=
  { s.acceptCommand with
    opos := 0
    out := []
    ctl := .encodeStart }

/-- The part of a successful completion that DECODE and ENCODE share: ERR_POS 0, STATUS DONE, PHASE IDLE. -/
def State.succeed (s : State) : State :=
  { s with errPos := 0#16, status := statusSuccess, phase := .idle }

/-- Completion of a DECODE that gave `m` (spec/45_host_commands.md R242). The host's reads see it from here on
(DEDUCED, log 14). -/
def State.completeDecode (s : State) (m : Message) : State :=
  { s.succeed with msg := some m }

/-- Completion of an ENCODE that gave the bytes `b`: exactly OBUF[0..|b|) is written, the other bytes keep their
values (spec/45_host_commands.md R243, spec/20_memory.md R68). -/
def State.completeEncode (s : State) (b : Bytes) : State :=
  { s.succeed with obuf := s.obuf.writeBytes 0 b, outLen := BitVec.ofNat 16 b.length }

end Sys2Proof.Machine
end

