-- ==== Sys2Proof/Machine/Operands.lean ====
section
/-! DEFINITION. The bounds-checked scanner, DNSC's only path to IBUF (spec/40_buffer_scanner.md), and how the
result of a read or of a name step becomes a step of the machine. -/

namespace Sys2Proof.Machine

/-- What a decode may depend on (spec/40_buffer_scanner.md R136, spec/43_message_decoder.md R208). -/
structure Input where
  ibuf : Memory
  len : Nat
  params : Params
deriving DecidableEq, Repr

/-- The result of a procedure that may raise an error (spec/00_scope.md R17) or meet a byte that holds ⊥. -/
inductive Res (α : Type) where
  | ok (a : α)
  | err (e : Err)
  | fault (f : Fault)
deriving DecidableEq, Repr

/-- If the first raises, the caller raises the same error (spec/00_scope.md R18). -/
def Res.andThen {α β : Type} (r : Res α) (k : α → Res β) : Res β :=
  match r with
  | .ok a => k a
  | .err e => .err e
  | .fault f => .fault f

/-- What the scanner sees of the state. -/
def State.input (s : State) : Input where
  ibuf := s.ibuf
  len := s.len
  params := s.params

/-- `inb(a, n)`: `a + n <= LEN` on unbounded naturals (spec/40_buffer_scanner.md R130). -/
def inb (e : Input) (a n : Nat) : Bool := decide (a + n ≤ e.len)

/-- `IB(a)`, used only behind `inb`; a byte that holds ⊥ is the model fault UNINIT_READ (R130, R137). -/
def ib (e : Input) (a : Nat) : Res Byte :=
  match e.ibuf.read a with
  | some b => .ok b
  | none => .fault .uninitRead

/-- The bytes `[IB(a), ..., IB(a+n-1)]`. -/
def ibRange (e : Input) (a : Nat) : Nat → Res Bytes
  | 0 => .ok []
  | n + 1 => (ib e a).andThen fun b => (ibRange e (a + 1) n).andThen fun bs => .ok (b :: bs)

/-- RD8 (spec/40_buffer_scanner.md R131). -/
def rd8 (e : Input) (a : Nat) (why : MalReason) : Res Byte :=
  if inb e a 1 then ib e a else .err (.malformed why a)

/-- RD16: one check for both bytes, most significant first (R132). -/
def rd16 (e : Input) (a : Nat) (why : MalReason) : Res U16 :=
  if inb e a 2 then
    (ib e a).andThen fun b0 => (ib e (a + 1)).andThen fun b1 => .ok (u16 b0 b1)
  else .err (.malformed why a)

/-- RD32: one check for all four bytes (R133). -/
def rd32 (e : Input) (a : Nat) (why : MalReason) : Res U32 :=
  if inb e a 4 then
    (ib e a).andThen fun b0 => (ib e (a + 1)).andThen fun b1 =>
    (ib e (a + 2)).andThen fun b2 => (ib e (a + 3)).andThen fun b3 => .ok (u32 b0 b1 b2 b3)
  else .err (.malformed why a)

/-- RDSLICE: all `n` bytes or an error, never a short slice (R134). -/
def rdSlice (e : Input) (a n : Nat) (why : MalReason) : Res Bytes :=
  if inb e a n then ibRange e a n else .err (.malformed why a)

/-- A DECODE step that needs a result: go on with it, enter the error, or stop at the model fault. -/
def State.decodeStep {α : Type} (s : State) (r : Res α) (k : α → State) : Result :=
  match r with
  | .ok a => .next (k a)
  | .err e => .next (s.raise .decode e)
  | .fault f => .fault f

end Sys2Proof.Machine
end

