-- ==== Sys2Proof/Machine/Commands.lean ====
section
/-! DEFINITION. The meanings of the four CMD32 rows (spec/45_host_commands.md R240 to R245). -/

namespace Sys2Proof.Machine

/-- A CMD write while BUSY is ignored and not queued (R245); while IDLE it is the event `accepted`. -/
def State.whenIdle (s : State) (accepted : State) : Result :=
  match s.phase with
  | .busy => .next s
  | .idle => .next accepted

/-- CMD_NOP (R241): nothing, in either phase. -/
def execCmdNop (_x : BitVec 24) (s : State) : Result := s.whenIdle s

/-- CMD_DECODE (R242), its acceptance; the internal steps and the completion are DNSC's own steps
(spec/45_host_commands.md R240). -/
def execCmdDecode (_x : BitVec 24) (s : State) : Result := s.whenIdle s.acceptDecode

/-- CMD_ENCODE (R243), its acceptance. -/
def execCmdEncode (_x : BitVec 24) (s : State) : Result := s.whenIdle s.acceptEncode

/-- CMD_ILLEGAL (R244): the error is entered in one event with the CMD write; nothing is dropped. -/
def execCmdIllegal (_x : BitVec 24) (opcode : Byte) (s : State) : Result :=
  s.whenIdle (s.raise .illegal (.illegalCmd opcode))

end Sys2Proof.Machine
end

