-- ==== Sys2Proof/Machine/NameCodec.lean ====
section
/-! DEFINITION. The name codec: the element steps of DEC_NAME with the meanings of the five tag rows, and ENC_NAME
(spec/41_name_codec.md). -/

namespace Sys2Proof.Machine

/-- DEC_NAME begins: ACC ← [], HOPS ← 0, P ← start, END ← ⊥ (spec/41_name_codec.md R150). -/
def NameRegs.start (p : Nat) : NameRegs where
  p := p
  fin := none
  hops := 0
  acc := []

/-- END once the element at P closes the name's own field after `size` bytes: set unless a pointer has set it
(R152, R155). -/
def NameRegs.fieldEnd (n : NameRegs) (size : Nat) : Nat := n.fin.getD (n.p + size)

/-- The NAME_LABEL step with length `size` (R153): the bounds check comes before the capacity check. A step that raises
Capacity(NAME) keeps ACC as it was, where the pseudocode appends the label first (DESIGN CHOICE, log 20). -/
def labelStep (e : Input) (n : NameRegs) (size : Nat) : Res NameRegs :=
  (rdSlice e (n.p + 1) size .sliceTrunc).andThen fun lab =>
    if within (enclen (n.acc ++ [lab])) e.params.nameCap then
      .ok { n with acc := n.acc ++ [lab], p := n.p + 1 + size }
    else .err (.capacity .name n.p)

/-- The NAME_EXT step for the tag value `tag`, 64..191 (R154). -/
def extStep (e : Input) (n : NameRegs) (tag : Nat) : Res NameRegs :=
  match e.params.extTagPolicy with
  | .reject => .err (.malformed .extTag n.p)
  | .asLength => labelStep e n tag

/-- The NAME_PTR step once both bytes are read (R155): the target must lie inside the message, and fewer than
PTR_LIMIT pointers may have been followed (spec/60_exceptions.md R268; DEDUCED, log 17). A step that raises keeps END as
it was, where the pseudocode sets it first (DESIGN CHOICE, log 20). -/
def pointerStep (e : Input) (n : NameRegs) (off : Nat) : Res NameRegs :=
  if e.len ≤ off then .err (.malformed .ptrRange n.p)
  else if n.hops < e.params.ptrLimit then
    .ok { n with fin := some (n.fieldEnd 2), hops := n.hops + 1, p := off }
  else .err (.malformed .ptrLimit n.p)

/-- The record list of the section being walked gets one more record; the header and question sections hold no
resource records (DEDUCED, log 17). -/
def Message.addRecord (m : Message) (sect : Sect) (r : ResourceRecord) : Message :=
  match sect with
  | .header => m
  | .question => m
  | .answer => { m with answers := m.answers ++ [r] }
  | .authority => { m with authority := m.authority ++ [r] }
  | .additional => { m with additional := m.additional ++ [r] }

/-- DEC_RR returns: the record with TYPE `t` and record data `rd` joins its section, CUR moves past it, the walker
goes on (spec/43_message_decoder.md R203, R204). It happens in the step that finishes the record's data (DESIGN CHOICE,
log 6). -/
def State.finishRecord (s : State) (t : U16) (rd : RData) (next : Nat) : State :=
  { s with
    draft := s.draft.addRecord s.sect
      { name := s.recd.name, rtype := t, rclass := s.recd.rclass, ttl := s.recd.ttl, rdata := rd }
    cur := next
    idx := s.idx + 1
    ctl := .walk }

/-- DEC_NAME returns `(nm, next)` to its caller: an owner name to DEC_QUESTION or DEC_RR, whose cursor becomes
`next`; a Cname to the RD_CNAME arm, whose record it completes (spec/43_message_decoder.md R202, R203,
spec/42_rdata_codec.md R182). It happens in the terminator's own step (DESIGN CHOICE, log 6). -/
def State.returnName (s : State) (nm : DomainName) (next : Nat) : State :=
  match s.use with
  | .owner =>
    { s with
      recd := { s.recd with name := nm }
      cur := next
      ctl := if s.sect = .question then .qtype else .rtype }
  | .cname => s.finishRecord s.recd.rtype (.cname nm) next

/-- An element step that continues the name: the registers change, or the error is entered. -/
def State.nameStep (s : State) (r : Res NameRegs) : Result :=
  s.decodeStep r fun n => { s with name := n }

/-- NAME_TERM (spec/41_name_codec.md R152). -/
def execNameTerm (s : State) : Result :=
  .next ({ s with name := { s.name with fin := some (s.name.fieldEnd 1) } }.returnName
    s.name.acc (s.name.fieldEnd 1))

/-- NAME_LABEL (R153): L is the tag's value. -/
def execNameLabel (len : BitVec 6) (s : State) : Result :=
  s.nameStep (labelStep s.input s.name len.toNat)

/-- NAME_EXT_01 (R154): the tag's value is 64 + its low six bits. -/
def execNameExt01 (low : BitVec 6) (s : State) : Result :=
  s.nameStep (extStep s.input s.name (64 + low.toNat))

/-- NAME_EXT_10 (R154): the tag's value is 128 + its low six bits. -/
def execNameExt10 (low : BitVec 6) (s : State) : Result :=
  s.nameStep (extStep s.input s.name (128 + low.toNat))

/-- NAME_PTR (R155): OFFSET is absolute and zero-extended. -/
def execNamePtr (off : BitVec 14) (s : State) : Result :=
  s.nameStep (pointerStep s.input s.name off.toNat)

/-- Read the element at P and decode it (R150, R151, R155): the tag byte, and a pointer's second byte, both with
reason NAME_UNTERM (DEDUCED, log 8). -/
def fetchElement (e : Input) (p : Nat) : Res Instr :=
  (rd8 e p .nameUnterm).andThen fun t =>
    match decodeTagByte t with
    | some i => .ok i
    | none => (rd8 e (p + 1) .nameUnterm).andThen fun b1 => .ok (decodePointer t b1)

/-- LABEL_ENC_MAX as a number (spec/00_scope.md R9). -/
def labelMax : LabelEncMax → Nat
  | .max255 => 255
  | .max63 => 63

/-- ENC_NAME (spec/41_name_codec.md R161): each label's length byte and bytes, then 0x00. `base` is the output
offset of the next byte, used only for the position of a label that is too long (R162). -/
def encName (max : LabelEncMax) : DomainName → Nat → Except Err Bytes
  | [], _ => .ok [0x00#8]
  | l :: n, base =>
    if labelMax max < l.length then .error (.invalidName .labelTooLong base)
    else
      match encName max n (base + 1 + l.length) with
      | .error e => .error e
      | .ok bs => .ok (BitVec.ofNat 8 l.length :: (l ++ bs))

end Sys2Proof.Machine
end

