-- ==== Sys2Proof/Machine/RdataCodec.lean ====
section
/-! DEFINITION. The record-type dispatcher: the meanings of the three RTYPE16 rows and ENC_RDATA
(spec/42_rdata_codec.md). -/

namespace Sys2Proof.Machine

/-- The body of an A or Opaque record: RDLENGTH raw bytes; the bounds check comes before RDATA_CAP's
(spec/42_rdata_codec.md R181, R183, R184). -/
def readBody (e : Input) (p rdlen : Nat) : Res Bytes :=
  (rdSlice e p rdlen .sliceTrunc).andThen fun b =>
    if within rdlen e.params.rdataCap then .ok b else .err (.capacity .rdata p)

/-- The record at hand gets the body at CUR as its data, under TYPE `t`. -/
def State.bodyRecord (s : State) (t : U16) (variant : Bytes → RData) : Result :=
  s.decodeStep (readBody s.input s.cur s.recd.rdlen.toNat) fun b =>
    s.finishRecord t (variant b) (s.cur + s.recd.rdlen.toNat)

/-- RD_A (R181): RDLENGTH is not checked against 4. The record's TYPE is the instruction's own (DESIGN CHOICE,
log 16). -/
def execRdA (s : State) : Result := s.bodyRecord 0x0001#16 RData.a

/-- RD_CNAME (R182): DEC_NAME begins at CUR, over the whole IBUF, with HOPS 0; when it returns, the record is
complete (`State.returnName`). RDLENGTH is not used. -/
def execRdCname (s : State) : Result :=
  .next { s with
    recd := { s.recd with rtype := 0x0005#16 }
    name := NameRegs.start s.cur
    use := .cname
    ctl := .name }

/-- RD_OPAQUE (R183). -/
def execRdOpaque (rtype : U16) (s : State) : Result := s.bodyRecord rtype RData.opaq

/-- ENC_RDATA (R185 to R187): the arm follows the variant, never the record's TYPE (R188). -/
def encRdata (max : LabelEncMax) : RData → Nat → Except Err Bytes
  | .cname n, base => encName max n base
  | .a b, _ => .ok b
  | .opaq b, _ => .ok b

end Sys2Proof.Machine
end

