-- ==== Sys2Proof/Machine/Dispatch.lean ====
section
/-! DEFINITION. One arm for each constructor of Instr. -/

namespace Sys2Proof.Machine

def exec (i : Instr) (s : State) : Host.Outcome State Fault Refusal :=
  match i with
  | .nameTerm => Sys2Proof.Machine.execNameTerm s
  | .nameLabel len => Sys2Proof.Machine.execNameLabel len s
  | .nameExt01 low => Sys2Proof.Machine.execNameExt01 low s
  | .nameExt10 low => Sys2Proof.Machine.execNameExt10 low s
  | .namePtr off => Sys2Proof.Machine.execNamePtr off s
  | .rdA => Sys2Proof.Machine.execRdA s
  | .rdCname => Sys2Proof.Machine.execRdCname s
  | .rdOpaque rtype => Sys2Proof.Machine.execRdOpaque rtype s
  | .cmdNop x => Sys2Proof.Machine.execCmdNop x s
  | .cmdDecode x => Sys2Proof.Machine.execCmdDecode x s
  | .cmdEncode x => Sys2Proof.Machine.execCmdEncode x s
  | .cmdIllegal x opcode => Sys2Proof.Machine.execCmdIllegal x opcode s

end Sys2Proof.Machine
end

