-- ==== Sys2Proof/Machine/Encoder.lean ====
section
/-! DEFINITION. The message encoder as functions (spec/44_message_encoder.md): ENC_CORE with its parts, and the
OBUF rule R226. -/

namespace Sys2Proof.Machine

/-- A list length as a 16-bit field. -/
def be16Length (n : Nat) : Bytes := be16 (BitVec.ofNat 16 n)

/-- ENC_HEADER (spec/44_message_encoder.md R221): counts are the list lengths. -/
def encHeader (m : Message) : Bytes :=
  be16 m.id ++ be16 m.flags ++ be16Length m.questions.length ++ be16Length m.answers.length ++
  be16Length m.authority.length ++ be16Length m.additional.length

/-- CHECK_COUNTS (R222): the first count that does not fit 16 bits, at its offset. -/
def checkCounts (m : Message) : Except Err Unit :=
  if 0xFFFF < m.questions.length then .error (.capacity .count16 4)
  else if 0xFFFF < m.answers.length then .error (.capacity .count16 6)
  else if 0xFFFF < m.authority.length then .error (.capacity .count16 8)
  else if 0xFFFF < m.additional.length then .error (.capacity .count16 10)
  else .ok ()

/-- ENC_QUESTION (R223). -/
def encQuestion (max : LabelEncMax) (q : QuestionRecord) (base : Nat) : Except Err Bytes :=
  match encName max q.name base with
  | .error e => .error e
  | .ok nb => .ok (nb ++ be16 q.qtype ++ be16 q.qclass)

/-- ENC_RR (R224): RDLENGTH is the byte length of the encoded record data; R225 refuses one over 65535. -/
def encRecord (max : LabelEncMax) (r : ResourceRecord) (base : Nat) : Except Err Bytes :=
  match encName max r.name base with
  | .error e => .error e
  | .ok nb =>
    match encRdata max r.rdata (base + nb.length + 8 + 2) with
    | .error e => .error e
    | .ok rd =>
      if 0xFFFF < rd.length then .error (.capacity .rdlen16 (base + nb.length + 8))
      else .ok (nb ++ (be16 r.rtype ++ be16 r.rclass ++ be32 r.ttl) ++ be16Length rd.length ++ rd)

/-- `for x in xs: out <- out ++ enc(x, |out|)`: the first error, or all the bytes. -/
def encEach {α : Type} (enc : α → Nat → Except Err Bytes) : List α → Bytes → Except Err Bytes
  | [], out => .ok out
  | x :: xs, out =>
    match enc x out.length with
    | .error e => .error e
    | .ok b => encEach enc xs (out ++ b)

/-- ENC_CORE (R220): the bytes of a message or the first error. -/
def encCore (max : LabelEncMax) (m : Message) : Except Err Bytes :=
  match checkCounts m with
  | .error e => .error e
  | .ok () =>
    match encEach (encQuestion max) m.questions (encHeader m) with
    | .error e => .error e
    | .ok b1 =>
      match encEach (encRecord max) m.answers b1 with
      | .error e => .error e
      | .ok b2 =>
        match encEach (encRecord max) m.authority b2 with
        | .error e => .error e
        | .ok b3 => encEach (encRecord max) m.additional b3

/-- The output does not fit: the error at the first offset past the buffer (R226, R227). -/
def obufFull (p : Params) : Err := .capacity .obuf p.obufCap

/-- An error is reported only if every byte before its position fitted (R226). -/
def reported (p : Params) (e : Err) : Err := if errPosition e ≤ p.obufCap then e else obufFull p

/-- The OBUF rule R226: what ENCODE reports for an answer of ENC_CORE. -/
def fitOutput (p : Params) : Except Err Bytes → Except Err Bytes
  | .ok b => if b.length ≤ p.obufCap then .ok b else .error (obufFull p)
  | .error e => .error (reported p e)

/-- The result of ENCODE for the message `m` (R226). -/
def encodeResult (p : Params) (m : Message) : Except Err Bytes := fitOutput p (encCore p.labelEncMax m)

/-- The encoding of the record of `m` that stands at `idx` of section `sect`, if there is one. -/
def encItem (max : LabelEncMax) (m : Message) (sect : Sect) (idx base : Nat) : Option (Except Err Bytes) :=
  match sect with
  | .header => none
  | .question => m.questions[idx]?.map fun q => encQuestion max q base
  | .answer => m.answers[idx]?.map fun r => encRecord max r base
  | .authority => m.authority[idx]?.map fun r => encRecord max r base
  | .additional => m.additional[idx]?.map fun r => encRecord max r base

end Sys2Proof.Machine
end

