-- ==== Sys2Proof/Machine/Engine.lean ====
section
/-! DEFINITION. DNSC's turn: the internal steps of a running command, one scanner read, one name element, one
loop test or one encoded record at a time (spec/45_host_commands.md R240, R246; log 6). -/

namespace Sys2Proof.Machine

/-- What the next step does: run a decoded instruction in a state, or anything else. -/
inductive Fetched where
  | run (i : Instr) (s : State)
  | act (r : Result)

/-- The offset of a header field (spec/30_encoding.md R92). -/
def headerOffset : HeaderField → Nat
  | .id => 0
  | .flags => 2
  | .qd => 4
  | .an => 6
  | .ns => 8
  | .ar => 10

/-- What is read after a header field: the next field, or the sections once all six are read. -/
def afterHeader : HeaderField → Ctl
  | .id => .header .flags
  | .flags => .header .qd
  | .qd => .header .an
  | .an => .header .ns
  | .ns => .header .ar
  | .ar => .walk

/-- A header field's value goes to the message being built or to its count register
(spec/43_message_decoder.md R201). -/
def State.setHeader (s : State) (f : HeaderField) (v : U16) : State :=
  match f with
  | .id => { s with draft := { s.draft with id := v } }
  | .flags => { s with draft := { s.draft with flags := v } }
  | .qd => { s with qd := v }
  | .an => { s with an := v }
  | .ns => { s with ns := v }
  | .ar => { s with ar := v }

/-- One step of DEC_HEADER (R201). -/
def State.headerStep (s : State) (f : HeaderField) : Result :=
  s.decodeStep (rd16 s.input (headerOffset f) .hdrTrunc) fun v =>
    { s.setHeader f v with cur := headerOffset f + 2, ctl := afterHeader f }

/-- The section after `sect` in the walk (spec/43_message_decoder.md R204, the state machine over SECT). -/
def nextSect : Sect → Option Sect
  | .header => some .question
  | .question => some .answer
  | .answer => some .authority
  | .authority => some .additional
  | .additional => none

/-- The section at hand is finished: IDX ← 0 in the next one, or the walk is over. -/
def State.leaveSection (s : State) (whenOver : Ctl) : State :=
  match nextSect s.sect with
  | some t => { s with sect := t, idx := 0 }
  | none => { s with ctl := whenOver }

/-- The count of the section being walked; the header has no records. -/
def State.sectCount (s : State) : Nat :=
  match s.sect with
  | .header => 0
  | .question => s.qd.toNat
  | .answer => s.an.toNat
  | .authority => s.ns.toNat
  | .additional => s.ar.toNat

/-- The head of DEC_SECTION's loop (R204): REC_CAP is checked at the record's first byte (R205), then the record
begins with its owner name at CUR. -/
def State.walkStep (s : State) : Result :=
  if s.idx < s.sectCount then
    if within (s.idx + 1) s.params.recCap then
      .next { s with name := NameRegs.start s.cur, use := .owner, ctl := .name }
    else .next (s.raise .decode (.capacity .records s.cur))
  else .next (s.leaveSection .decodeDone)

/-- Read the 16-bit field at CUR into the record, then read what `after` says (R202, R203). -/
def State.fieldStep (s : State) (set : RecordRegs → U16 → RecordRegs) (after : Ctl) : Result :=
  s.decodeStep (rd16 s.input s.cur .fieldTrunc) fun v =>
    { s with recd := set s.recd v, cur := s.cur + 2, ctl := after }

/-- Read QCLASS: the question is complete and joins the question section (R202, R204). -/
def State.qclassStep (s : State) : Result :=
  s.decodeStep (rd16 s.input s.cur .fieldTrunc) fun v =>
    { s with
      draft := { s.draft with
        questions := s.draft.questions ++ [{ name := s.recd.name, qtype := s.recd.rtype, qclass := v }] }
      cur := s.cur + 2
      idx := s.idx + 1
      ctl := .walk }

/-- Read TTL (R203). -/
def State.ttlStep (s : State) : Result :=
  s.decodeStep (rd32 s.input s.cur .fieldTrunc) fun v =>
    { s with recd := { s.recd with ttl := v }, cur := s.cur + 4, ctl := .rdlength }

/-- The decode point of a name element: the element at P is read and decoded; a read that passes LEN enters the
error NAME_UNTERM (spec/41_name_codec.md R151, R155). -/
def State.elementTurn (s : State) : Fetched :=
  match fetchElement s.input s.name.p with
  | .ok i => .run i s
  | .err e => .act (.next (s.raise .decode e))
  | .fault f => .act (.fault f)

/-- The IBUF_CAP check that comes before any read (spec/45_host_commands.md R242, spec/60_exceptions.md R267). -/
def State.decodeStartStep (s : State) : Result :=
  if s.params.ibufCap < s.len then .next (s.raise .decode (.capacity .ibuf 0))
  else .next { s with ctl := .header .id }

/-- ENCODE reads MSG; MSG = ⊥ is the model fault UNINIT_READ (spec/45_host_commands.md R243). -/
def State.withMsg (s : State) (k : Message → Result) : Result :=
  match s.msg with
  | none => .fault .uninitRead
  | some m => k m

/-- Emit bytes at OPOS, failing at the first write at offset OBUF_CAP (spec/44_message_encoder.md R226). -/
def State.emit (s : State) (r : Except Err Bytes) (k : State → State) : Result :=
  match r with
  | .error e => .next (s.raise .encode (reported s.params e))
  | .ok b =>
    if s.opos + b.length ≤ s.params.obufCap then
      .next (k { s with out := s.out ++ b, opos := s.opos + b.length })
    else .next (s.raise .encode (obufFull s.params))

/-- CHECK_COUNTS and ENC_HEADER (R221, R222). From here on SECT and IDX are ENCODE's place in the section lists, where
spec/10_state.md R45 gives them to DECODE and R46 gives ENCODE only OPOS (DESIGN CHOICE, log 19). -/
def State.encodeStartStep (s : State) : Result :=
  s.withMsg fun m =>
    s.emit (match checkCounts m with | .ok () => .ok (encHeader m) | .error e => .error e) fun t =>
      { t with sect := .question, idx := 0, ctl := .encodeRecord }

/-- The next record of the section, encoded at OPOS; without one the section is left (R220). The place in the section
lists is SECT and IDX (DESIGN CHOICE, log 19). -/
def State.encodeRecordStep (s : State) : Result :=
  s.withMsg fun m =>
    match encItem s.params.labelEncMax m s.sect s.idx s.opos with
    | some r => s.emit r fun t => { t with idx := t.idx + 1 }
    | none => .next (s.leaveSection .encodeDone)

/-- One step of the running command. -/
def State.engine (s : State) : Fetched :=
  match s.ctl with
  | .decodeStart => .act s.decodeStartStep
  | .header f => .act (s.headerStep f)
  | .walk => .act s.walkStep
  | .name => s.elementTurn
  | .qtype => .act (s.fieldStep (fun r v => { r with rtype := v }) .qclass)
  | .qclass => .act s.qclassStep
  | .rtype => .act (s.fieldStep (fun r v => { r with rtype := v }) .rclass)
  | .rclass => .act (s.fieldStep (fun r v => { r with rclass := v }) .ttl)
  | .ttl => .act s.ttlStep
  | .rdlength => .act (s.fieldStep (fun r v => { r with rdlen := v }) .rdata)
  | .rdata => .run (decodeRtype s.recd.rtype) s
  | .decodeDone => .act (.next (s.completeDecode s.draft))
  | .encodeStart => .act s.encodeStartStep
  | .encodeRecord => .act s.encodeRecordStep
  | .encodeDone => .act (.next (s.completeEncode s.out))

/-- DNSC's turn: a step of the running command; while IDLE it takes no step and all state survives
(spec/60_exceptions.md R278). -/
def State.dnscTurn (s : State) : Fetched :=
  match s.phase with
  | .idle => .act (.next s)
  | .busy => s.engine

end Sys2Proof.Machine
end

