-- ==== Sys2Proof/Machine/Bus.lean ====
section
/-! DEFINITION. The host's accesses: the 18-bit address space, the register map, the buffer windows and the message
port (spec/20_memory.md R69 to R74, spec/10_state.md R31 to R41). -/

namespace Sys2Proof.Machine

/-- The regions of the address map (spec/20_memory.md R69). -/
inductive Region where
  | registers
  | ibufWindow
  | obufWindow
  | unmapped
deriving DecidableEq, Repr

/-- The region of an address (R69). -/
def region (addr : BitVec 18) : Region :=
  if addr.toNat < 0x100 then .registers
  else if addr.toNat < 0x10000 then .unmapped
  else if addr.toNat < 0x20000 then .ibufWindow
  else if addr.toNat < 0x30000 then .obufWindow
  else .unmapped

/-- The bytes of an access. -/
def widthBytes : Width → Nat
  | .w8 => 1
  | .w16 => 2
  | .w32 => 4

/-- The accesses the spec defines: aligned 32-bit ones of the register block, 8-bit ones of the windows
(spec/20_memory.md R70), and those that lie wholly in unmapped addresses (R69; log 12). -/
def accessDefined (addr : BitVec 18) (w : Width) : Bool :=
  match region addr with
  | .registers => decide (w = .w32) && decide (addr.toNat % 4 = 0)
  | .ibufWindow => decide (w = .w8)
  | .obufWindow => decide (w = .w8)
  | .unmapped =>
    decide (addr.toNat + widthBytes w ≤ 0x10000) ||
    (decide (0x30000 ≤ addr.toNat) && decide (addr.toNat + widthBytes w ≤ 0x40000))

/-- The offset of a window address in its buffer. -/
def windowOffset (addr : BitVec 18) : Nat := addr.toNat % 0x10000

/-- What a host read saw, added to the observations. -/
def State.observe (s : State) (v : Seen) : State := { s with seen := s.seen ++ [v] }

/-- The value a register read returns (spec/10_state.md R31 to R41); `none` for OUT_LEN and ERR_POS while BUSY
(spec/20_memory.md R74). -/
def State.registerValue (s : State) (addr : BitVec 18) : Option U32 :=
  if addr = 0x04#18 then some s.status
  else if addr = 0x08#18 then some (lowHalf s.inLen)
  else if addr = 0x0C#18 then
    match s.phase with
    | .busy => none
    | .idle => some (lowHalf s.outLen)
  else if addr = 0x10#18 then
    match s.phase with
    | .busy => none
    | .idle => some (lowHalf s.errPos)
  else if addr = 0x14#18 then some (lowHalf (BitVec.ofNat 16 s.params.ptrLimit))
  else if addr = 0x18#18 then some (param1Word s.params)
  else if addr = 0x1C#18 then some (lowHalf (BitVec.ofNat 16 s.params.ibufCap))
  else if addr = 0x20#18 then some (lowHalf (BitVec.ofNat 16 s.params.obufCap))
  else some 0#32

/-- The byte an IBUF window read returns: 0 beyond IBUF_CAP (spec/20_memory.md R69); `none` where IBUF holds ⊥
(R71). DNSC does not change IBUF, so the read is the same in both phases (log 11). -/
def State.ibufByte (s : State) (o : Nat) : Option Byte :=
  if o < s.params.ibufCap then s.ibuf.read o else some 0#8

/-- The byte an OBUF window read returns: 0 beyond OBUF_CAP (R69); `none` where OBUF holds ⊥ (R71) or while BUSY
(R74); beyond the capacity 0 in both phases (DEDUCED, log 13). -/
def State.obufByte (s : State) (o : Nat) : Option Byte :=
  if o < s.params.obufCap then
    match s.phase with
    | .busy => none
    | .idle => s.obuf.read o
  else some 0#8

/-- A read that has no value is the model fault UNINIT_READ (spec/60_exceptions.md R265). -/
def State.observeOr (s : State) (v : Option Seen) : Result :=
  match v with
  | some v => .next (s.observe v)
  | none => .fault .uninitRead

/-- A bus read. Reads have no side effect (spec/10_state.md R41). An access that is not defined is refused before the
phase is looked at (DESIGN CHOICE, log 21). -/
def State.busRead (s : State) (addr : BitVec 18) (w : Width) : Result :=
  if accessDefined addr w then
    match region addr with
    | .registers => s.observeOr ((s.registerValue addr).map Seen.word)
    | .ibufWindow => s.observeOr ((s.ibufByte (windowOffset addr)).map Seen.byte)
    | .obufWindow => s.observeOr ((s.obufByte (windowOffset addr)).map Seen.byte)
    | .unmapped =>
      match w with
      | .w8 => .next (s.observe (.byte 0#8))
      | .w16 => .next (s.observe (.word 0#32))
      | .w32 => .next (s.observe (.word 0#32))
  else .refused .badAccess

/-- A write of IBUF[o]: HOST_RACE while BUSY (spec/20_memory.md R74), ignored beyond IBUF_CAP in both phases
(R69; DEDUCED, log 13). -/
def State.writeIbuf (s : State) (o : Nat) (b : Byte) : Result :=
  if o < s.params.ibufCap then
    match s.phase with
    | .busy => .fault .hostRace
    | .idle => .next { s with ibuf := s.ibuf.write o b }
  else .next s

/-- A bus write. A write to CMD runs the command it selects (spec/10_state.md R32); IN_LEN keeps bits 15:0 (R34);
every other register, OBUF and the unmapped addresses ignore writes (R41, spec/20_memory.md R69). An access that is not
defined is refused before the phase is looked at (DESIGN CHOICE, log 21). -/
def State.busWrite (s : State) (addr : BitVec 18) (w : Width) (data : U32) : Fetched :=
  if accessDefined addr w then
    match region addr with
    | .registers =>
      if addr = 0x00#18 then .run (decodeCmd data) s
      else if addr = 0x08#18 then .act (.next { s with inLen := data.extractLsb' 0 16 })
      else .act (.next s)
    | .ibufWindow => .act (s.writeIbuf (windowOffset addr) (data.extractLsb' 0 8))
    | .obufWindow => .act (.next s)
    | .unmapped => .act (.next s)
  else .act (.refused .badAccess)

/-- One bus access of the host. -/
def State.busAccess (s : State) : Access → Fetched
  | .read addr w => .act (s.busRead addr w)
  | .write addr w data => s.busWrite addr w data

/-- `msg_read()` (spec/20_memory.md R72): UNINIT_READ where MSG = ⊥ and while BUSY (R74). -/
def State.msgRead (s : State) : Result :=
  match s.phase with
  | .busy => .fault .uninitRead
  | .idle => s.observeOr (s.msg.map Seen.message)

/-- `msg_write(m)` (spec/20_memory.md R72): HOST_RACE while BUSY whatever the message (R74; DEDUCED,
log 15); refused beyond a capacity (spec/10_state.md R30). -/
def State.msgWrite (s : State) (m : Message) : Result :=
  match s.phase with
  | .busy => .fault .hostRace
  | .idle => if messageFits s.params m then .next { s with msg := some m } else .refused .overCapacity

/-- Reset, in either phase (spec/70_reset_and_hazards.md R290, R291): the parameters stay, a running command is
abandoned. What the host has still to do and what it has seen are the host's own. -/
def State.resetEvent (s : State) : State :=
  { State.resetWith s.params with host := s.host, seen := s.seen }

end Sys2Proof.Machine
end

