-- ==== Sys2Proof/Machine/Fetch.lean ====
section
/-! DEFINITION. Which event comes next and the instruction it runs, and the placing of a word where the next step
runs it. -/

namespace Sys2Proof.Machine

/-- The next event: the head of the host's program, taken off it; DNSC's turn where the host has nothing to do,
passes or waits for BUSY = 0 (spec/30_encoding.md R113, spec/45_host_commands.md R246; log 2). -/
def fetch (s : State) : Fetched :=
  match s.host with
  | [] => s.dnscTurn
  | .pass :: rest => State.dnscTurn { s with host := rest }
  | .wait :: rest =>
    match s.phase with
    | .busy => s.dnscTurn
    | .idle => .act (State.busRead { s with host := rest } 0x04#18 .w32)
  | .bus a :: rest => State.busAccess { s with host := rest } a
  | .msgRead :: rest => .act (State.msgRead { s with host := rest })
  | .msgWrite m :: rest => .act (State.msgWrite { s with host := rest } m)
  | .reset :: rest => .act (.next (State.resetEvent { s with host := rest }))

/-- The bytes of the longest instruction with the data it takes from IBUF: a tag and the 191 bytes of a label
under AS_LENGTH (spec/20_memory.md R64). -/
def longestElement : Nat := 192

/-- DNSC is running a command and has the next turn. -/
def State.giveTurn (s : State) : State :=
  { s with phase := .busy, status := statusRunning, host := .pass :: s.host }

/-- A coded object placed where the next step runs it: a command word as the host's next write to CMD; a tag at P
in IBUF, zero bytes after it, inside LEN; a record type in the TYPE register at the dispatch (log 10). -/
def State.place (s : State) : Code → State
  | .cmd v => { s with host := .bus (.write 0x00#18 .w32 v) :: s.host }
  | .rtype t => { s.giveTurn with ctl := .rdata, recd := { s.recd with rtype := t } }
  | .tag bs =>
    { s.giveTurn with
      ctl := .name
      ibuf := s.ibuf.writeBytes s.name.p (bs ++ List.replicate (longestElement - bs.length) 0x00#8)
      len := max s.len (s.name.p + longestElement) }

/-- A word of the opcode table placed where the next step runs it; a word of no format changes nothing. -/
def State.placeWord (s : State) (nbits w : Nat) : State :=
  match tableCode nbits w with
  | some c => s.place c
  | none => s

end Sys2Proof.Machine
end

