-- ==== Sys2Proof/Machine/Decoder.lean ====
section
/-! DEFINITION. The decode procedures as functions, written from their pseudocode: DEC_NAME
(spec/41_name_codec.md R150), DEC_RDATA (spec/42_rdata_codec.md R180), DEC_HEADER, DEC_QUESTION, DEC_RR,
DEC_SECTION and DECODE_MSG (spec/43_message_decoder.md R200 to R204). The machine runs them one step at a time
(Machine/Engine.lean); claims say that both give the same result. -/

namespace Sys2Proof.Machine

/-- The result of a procedure with a bounded loop; `none` would mean that the loop did not end within its
bound, which spec/41_name_codec.md R159 excludes. -/
abbrev Proc (α : Type) := Option (Res α)

/-- If the first raises, the caller raises the same error (spec/00_scope.md R18). -/
def procThen {α β : Type} (r : Proc α) (k : α → Proc β) : Proc β :=
  match r with
  | none => none
  | some (.ok a) => k a
  | some (.err e) => some (.err e)
  | some (.fault f) => some (.fault f)

/-- A single scanner read or element step as a procedure. -/
def once {α β : Type} (r : Res α) (k : α → Proc β) : Proc β := procThen (some r) k

/-- The loop of DEC_NAME (R150), at most `fuel` element steps: it reads the tag at P and takes the step of its
class. -/
def decNameLoop (e : Input) : Nat → NameRegs → Proc (DomainName × Nat)
  | 0, _ => none
  | fuel + 1, n =>
    once (rd8 e n.p .nameUnterm) fun t =>
      if t = 0x00#8 then some (.ok (n.acc, n.fieldEnd 1))
      else if t.extractLsb' 6 2 = 0b11#2 then
        once (rd8 e (n.p + 1) .nameUnterm) fun b1 =>
        once (pointerStep e n ((t &&& 0x3F#8).toNat * 256 + b1.toNat)) fun n' => decNameLoop e fuel n'
      else if t.extractLsb' 6 2 = 0b00#2 then
        once (labelStep e n t.toNat) fun n' => decNameLoop e fuel n'
      else once (extStep e n t.toNat) fun n' => decNameLoop e fuel n'

/-- The most element steps one name takes (spec/41_name_codec.md R159). -/
def nameBound (e : Input) : Nat := (e.params.ptrLimit + 1) * (e.len + 1)

/-- DEC_NAME (R150): the name and the offset just past its own bytes. -/
def decName (e : Input) (start : Nat) : Proc (DomainName × Nat) :=
  decNameLoop e (nameBound e) (NameRegs.start start)

/-- DEC_RDATA (spec/42_rdata_codec.md R180). -/
def decRdata (e : Input) (rtype : U16) (rdlen p : Nat) : Proc (RData × Nat) :=
  if rtype = 0x0005#16 then procThen (decName e p) fun r => some (.ok (.cname r.1, r.2))
  else if rtype = 0x0001#16 then once (readBody e p rdlen) fun b => some (.ok (.a b, p + rdlen))
  else once (readBody e p rdlen) fun b => some (.ok (.opaq b, p + rdlen))

/-- The values of DEC_HEADER. -/
structure Header where
  id : U16
  flags : U16
  qd : U16
  an : U16
  ns : U16
  ar : U16
deriving DecidableEq, Repr

/-- DEC_HEADER (spec/43_message_decoder.md R201). -/
def decHeader (e : Input) : Proc Header :=
  once (rd16 e 0 .hdrTrunc) fun id =>
  once (rd16 e 2 .hdrTrunc) fun flags =>
  once (rd16 e 4 .hdrTrunc) fun qd =>
  once (rd16 e 6 .hdrTrunc) fun an =>
  once (rd16 e 8 .hdrTrunc) fun ns =>
  once (rd16 e 10 .hdrTrunc) fun ar =>
  some (.ok { id := id, flags := flags, qd := qd, an := an, ns := ns, ar := ar })

/-- DEC_QUESTION (R202). -/
def decQuestion (e : Input) (p : Nat) : Proc (QuestionRecord × Nat) :=
  procThen (decName e p) fun r =>
  once (rd16 e r.2 .fieldTrunc) fun qt =>
  once (rd16 e (r.2 + 2) .fieldTrunc) fun qc =>
  some (.ok ({ name := r.1, qtype := qt, qclass := qc }, r.2 + 4))

/-- DEC_RR (R203). -/
def decRecord (e : Input) (p : Nat) : Proc (ResourceRecord × Nat) :=
  procThen (decName e p) fun r =>
  once (rd16 e r.2 .fieldTrunc) fun t =>
  once (rd16 e (r.2 + 2) .fieldTrunc) fun c =>
  once (rd32 e (r.2 + 4) .fieldTrunc) fun ttl =>
  once (rd16 e (r.2 + 8) .fieldTrunc) fun rl =>
  procThen (decRdata e t rl.toNat (r.2 + 10)) fun d =>
  some (.ok ({ name := r.1, rtype := t, rclass := c, ttl := ttl, rdata := d.1 }, d.2))

/-- DEC_SECTION (R204) from record `idx` on, `left` records to go, at CUR: REC_CAP is checked at each record's
first byte (R205). -/
def decSection {α : Type} (e : Input) (dec : Nat → Proc (α × Nat)) : Nat → Nat → Nat → Proc (List α × Nat)
  | 0, _, cur => some (.ok ([], cur))
  | left + 1, idx, cur =>
    if within (idx + 1) e.params.recCap then
      procThen (dec cur) fun r =>
      procThen (decSection e dec left (idx + 1) r.2) fun rs =>
      some (.ok (r.1 :: rs.1, rs.2))
    else some (.err (.capacity .records cur))

/-- DECODE_MSG (R200): the message and the final CUR. Bytes from CUR on are not read (R206). -/
def decodeMsg (e : Input) : Proc (Message × Nat) :=
  procThen (decHeader e) fun h =>
  procThen (decSection e (decQuestion e) h.qd.toNat 0 12) fun qs =>
  procThen (decSection e (decRecord e) h.an.toNat 0 qs.2) fun ans =>
  procThen (decSection e (decRecord e) h.ns.toNat 0 ans.2) fun auth =>
  procThen (decSection e (decRecord e) h.ar.toNat 0 auth.2) fun add =>
  some (.ok ({ id := h.id, flags := h.flags, questions := qs.1, answers := ans.1,
               authority := auth.1, additional := add.1 }, add.2))

/-- The result of a DECODE command (spec/45_host_commands.md R242): Capacity(IBUF) comes before any read
(spec/60_exceptions.md R267). -/
def decodeResult (e : Input) : Proc (Message × Nat) :=
  if e.params.ibufCap < e.len then some (.err (.capacity .ibuf 0)) else decodeMsg e

end Sys2Proof.Machine
end

