-- ==== Sys2Proof/Safety.lean ====
section
/-! DEFINITION. What claims are stated in: whose turn it is, what a buffer holds, the legal STATUS words, the
invariant of the machine, and the well-formed messages of the round trip. -/

namespace Sys2Proof.Machine

/-- The host program has ended: its last entry is done and no command is running
(spec/45_host_commands.md R247). -/
def State.ended (s : State) : Prop := s.host = [] ∧ s.phase = .idle

/-- The state in which DNSC takes the next step, if the next step is one of its own: it is running a command and
the host has nothing to do, waits, or passes (log 2). -/
def State.engineState (s : State) : Option State :=
  match s.phase with
  | .idle => none
  | .busy =>
    match s.host with
    | [] => some s
    | .wait :: _ => some s
    | .pass :: rest => some { s with host := rest }
    | .bus _ :: _ => none
    | .msgRead :: _ => none
    | .msgWrite _ :: _ => none
    | .reset :: _ => none

/-- `k` steps, stopping at the first fault or refusal. -/
def runSteps : Nat → State → Result
  | 0, s => .next s
  | k + 1, s =>
    match step s with
    | .next t => runSteps k t
    | .fault f => .fault f
    | .refused r => .refused r

/-- A buffer holds the byte string `bs` from offset `a` on. -/
def Memory.holds (m : Memory) (a : Nat) (bs : Bytes) : Prop :=
  ∀ k, k < bs.length → m.read (a + k) = bs[k]?

/-- Every byte of `n` from offset `a` has been written. -/
def Memory.written (m : Memory) (a n : Nat) : Prop :=
  ∀ k, k < n → (m.read (a + k)).isSome = true

/-- The legal STATUS words (spec/10_state.md R33): reserved bits 0, one of the four combinations of BUSY, DONE and
ERR, no kind and reason without ERR, no kind above 4. -/
def statusLegal (v : U32) : Bool :=
  !v.getLsbD 3 && decide (v.extractLsb' 16 16 = 0#16) &&
  ((!busyBit v && !doneBit v && !errBit v) || (busyBit v && !doneBit v && !errBit v) ||
   (!busyBit v && doneBit v && !errBit v) || (!busyBit v && doneBit v && errBit v)) &&
  (errBit v || (decide (kindField v = 0#4) && decide (reasonField v = 0#8))) &&
  decide ((kindField v).toNat ≤ 4)

/-- The invariant of the machine. -/
structure State.Inv (s : State) : Prop where
  /-- The parameters lie in their ranges (spec/00_scope.md R5 to R12). -/
  paramsLegal : s.params.legal = true
  /-- IBUF is in its canonical form. -/
  ibufWf : s.ibuf.wf
  /-- IBUF holds IBUF_CAP bytes (spec/10_state.md R28). -/
  ibufInside : ∀ c ∈ s.ibuf, c.1 < s.params.ibufCap
  /-- OBUF is in its canonical form. -/
  obufWf : s.obuf.wf
  /-- OBUF holds OBUF_CAP bytes (R29). -/
  obufInside : ∀ c ∈ s.obuf, c.1 < s.params.obufCap
  /-- STATUS is one of the legal words (R33). -/
  status : statusLegal s.status = true
  /-- STATUS.BUSY = 1 exactly when PHASE = BUSY (R47). -/
  busy : busyBit s.status = true ↔ s.phase = .busy
  /-- OUT_LEN is at most OBUF_CAP. -/
  outLen : s.outLen.toNat ≤ s.params.obufCap
  /-- LEN is a 16-bit value (R45). -/
  lenBound : s.len ≤ 65535
  /-- CUR never passes LEN (R43). -/
  curBound : s.cur ≤ s.len
  /-- P never passes LEN while a name is decoded (spec/41_name_codec.md R151). -/
  segmentBound : s.ctl = .name → s.name.p ≤ s.len
  /-- END, once set, never passes LEN while a name is decoded. -/
  endBound : s.ctl = .name → ∀ q, s.name.fin = some q → q ≤ s.len
  /-- HOPS is at most PTR_LIMIT (spec/10_state.md R44, spec/41_name_codec.md R156). -/
  hopsBound : s.name.hops ≤ s.params.ptrLimit
  /-- OPOS counts the bytes of output produced so far (spec/10_state.md R46). -/
  outputCount : s.out.length = s.opos
  /-- The output produced so far fits OBUF (spec/44_message_encoder.md R226). -/
  outputFits : s.opos ≤ s.params.obufCap

/-- Every label of a name has a length the wire's label element can carry (spec/44_message_encoder.md R229, W1). -/
def plainName (n : DomainName) : Bool := n.all fun l => decide (1 ≤ l.length) && decide (l.length ≤ 63)

/-- The variant agrees with the record's TYPE (spec/42_rdata_codec.md R180, spec/44_message_encoder.md R229, W2). -/
def variantAgrees (r : ResourceRecord) : Bool :=
  match r.rdata with
  | .cname _ => decide (r.rtype = 0x0005#16)
  | .a _ => decide (r.rtype = 0x0001#16)
  | .opaq _ => decide (r.rtype ≠ 0x0001#16) && decide (r.rtype ≠ 0x0005#16)

/-- Record data that fits RDLENGTH and whose Cname is plain (W1, W4). -/
def plainRdata : RData → Bool
  | .cname n => plainName n && decide (enclen n ≤ 65535)
  | .a b => decide (b.length ≤ 65535)
  | .opaq b => decide (b.length ≤ 65535)

/-- A record that meets W1, W2 and W4. -/
def plainRecord (r : ResourceRecord) : Bool := plainName r.name && variantAgrees r && plainRdata r.rdata

/-- The well-formed messages of spec/44_message_encoder.md R229, W1 to W5 (W6 is about their bytes). -/
def wellFormedMessage (p : Params) (m : Message) : Bool :=
  messageFits p m &&
  decide (m.questions.length ≤ 65535) && decide (m.answers.length ≤ 65535) &&
  decide (m.authority.length ≤ 65535) && decide (m.additional.length ≤ 65535) &&
  m.questions.all (fun q => plainName q.name) &&
  m.answers.all plainRecord && m.authority.all plainRecord && m.additional.all plainRecord

/-- What a decode may depend on: two inputs that agree on LEN, the parameters and the bytes below LEN. -/
def sameBelowLen (e f : Input) : Prop :=
  e.len = f.len ∧ e.params = f.params ∧ ∀ a, a < e.len → e.ibuf.read a = f.ibuf.read a

end Sys2Proof.Machine
end

