-- ==== Sys2Proof/Certificates/Slice0/Obligations.lean ====
section
/-! DEFINITION. The statements for the provers, each from numbered rules of spec/. -/

open Sys2Proof Sys2Proof.Machine

-- ---------------------------------------------------------------- encoding

/-- For every instruction that has an encoding, decoding its encoding gives it back (all twelve rows of
spec/opcode_table.json, every operand value). -/
def Obligations.DecodeOfEncodeIsIdentity : Prop :=
  ∀ i : Instr, i.wellFormed = true → decode (encode i) = .ok i

/-- Every coded word means one instruction, and no bit of it is dropped: encoding what was decoded gives the
word back (for a tag, the bytes of the element itself), and what is decoded is well-formed. -/
def Obligations.EncodeOfDecodeIsIdentity : Prop :=
  (∀ v : U32, (decodeCmd v).wellFormed = true ∧ encode (decodeCmd v) = .cmd v) ∧
  (∀ t : U16, (decodeRtype t).wellFormed = true ∧ encode (decodeRtype t) = .rtype t) ∧
  (∀ (bs : Bytes) (i : Instr), decode (.tag bs) = .ok i →
    i.wellFormed = true ∧ ∃ first rest, bs = first ++ rest ∧ encode i = .tag first)

/-- The tag byte selects the element class by its value (spec/30_encoding.md R95), the label length is the tag's
value (R103), and a pointer's OFFSET is its 16-bit value without the top two bits (R97). -/
def Obligations.TagByteSelectsElementClass : Prop :=
  ∀ (t b1 : Byte) (rest : Bytes),
    (t.toNat = 0 → decode (.tag (t :: rest)) = .ok .nameTerm) ∧
    (1 ≤ t.toNat → t.toNat ≤ 63 →
      ∃ l, decode (.tag (t :: rest)) = .ok (.nameLabel l) ∧ l.toNat = t.toNat) ∧
    (64 ≤ t.toNat → t.toNat ≤ 127 →
      ∃ l, decode (.tag (t :: rest)) = .ok (.nameExt01 l) ∧ 64 + l.toNat = t.toNat) ∧
    (128 ≤ t.toNat → t.toNat ≤ 191 →
      ∃ l, decode (.tag (t :: rest)) = .ok (.nameExt10 l) ∧ 128 + l.toNat = t.toNat) ∧
    (192 ≤ t.toNat →
      decode (.tag [t]) = .error .noSecondByte ∧
      ∃ off, decode (.tag (t :: b1 :: rest)) = .ok (.namePtr off) ∧
        off.toNat = (t.toNat * 256 + b1.toNat) % 16384)

/-- The low byte of the word written to CMD selects the command; bits 31:8 select nothing
(spec/30_encoding.md R105, R106, R107). -/
def Obligations.LowByteSelectsCommand : Prop :=
  ∀ v : U32,
    (v.toNat % 256 = 0 → ∃ x, decode (.cmd v) = .ok (.cmdNop x)) ∧
    (v.toNat % 256 = 1 → ∃ x, decode (.cmd v) = .ok (.cmdDecode x)) ∧
    (v.toNat % 256 = 2 → ∃ x, decode (.cmd v) = .ok (.cmdEncode x)) ∧
    (3 ≤ v.toNat % 256 → ∃ x o, decode (.cmd v) = .ok (.cmdIllegal x o) ∧ o.toNat = v.toNat % 256)

/-- Words written out from the encodings of spec/opcode_table.json decode to their rows' instructions. That the 16-bit
word 0xC00C is taken as a pointer, and not as a record TYPE (RD_OPAQUE by spec/30_encoding.md R109), is the model's choice
(DESIGN CHOICE, log 9): the table gives both formats 16 bits. -/
def Obligations.SampleWordsDecodeRight : Prop :=
  decodeTableWord 8 0b00000000 = some .nameTerm ∧
  decodeTableWord 8 0b00000011 = some (.nameLabel 3#6) ∧
  decodeTableWord 8 0b01000001 = some (.nameExt01 1#6) ∧
  decodeTableWord 8 0b10111111 = some (.nameExt10 63#6) ∧
  decodeTableWord 16 0b1100000000001100 = some (.namePtr 12#14) ∧
  decodeTableWord 16 0b0000000000000001 = some .rdA ∧
  decodeTableWord 16 0b0000000000000101 = some .rdCname ∧
  decodeTableWord 16 0b0000000000010000 = some (.rdOpaque 16#16) ∧
  decodeTableWord 32 0x00000000 = some (.cmdNop 0#24) ∧
  decodeTableWord 32 0xFFFFFF01 = some (.cmdDecode 0xFFFFFF#24) ∧
  decodeTableWord 32 0x00000002 = some (.cmdEncode 0#24) ∧
  decodeTableWord 32 0x00000103 = some (.cmdIllegal 1#24 3#8)

-- ---------------------------------------------------------------- the step

/-- A step runs the decoded instruction: at a name element the bytes at P, at the record type the TYPE register, on
a host write to CMD the word written (with the write taken off the host's program). Around `exec` the step only
takes the host's entry off (`engineState`). Whose turn it is, is the model's (log 2). -/
def Obligations.StepRunsDecodedInstruction : Prop :=
  (∀ (s u : State) (bs : Bytes) (i : Instr),
    s.engineState = some u → u.ctl = .name → u.ibuf.holds u.name.p bs → u.name.p + bs.length ≤ u.len →
    decode (.tag bs) = .ok i → step s = exec i u) ∧
  (∀ (s u : State) (i : Instr),
    s.engineState = some u → u.ctl = .rdata → decode (.rtype u.recd.rtype) = .ok i → step s = exec i u) ∧
  (∀ (s : State) (v : U32) (rest : List HostEvent) (i : Instr),
    s.host = .bus (.write 0x00#18 .w32 v) :: rest → decode (.cmd v) = .ok i →
    step s = exec i { s with host := rest })

/-- While IDLE, DNSC takes no step and all state survives (spec/60_exceptions.md R278): a step without a host event
changes nothing, a `pass` (the model's own entry, log 2) is taken off and nothing else changes. -/
def Obligations.IdleChangesNothing : Prop :=
  ∀ s : State, s.phase = .idle →
    (s.host = [] → step s = .next s) ∧
    (∀ rest, s.host = .pass :: rest → step s = .next { s with host := rest })

-- ---------------------------------------------------------------- the scanner

/-- RD8, RD16, RD32 and RDSLICE (spec/40_buffer_scanner.md R131 to R134): inside LEN they give the bytes, most
significant first; past LEN they raise the caller's reason at the offset; no short read. -/
def Obligations.ScannerReadsAreBoundsChecked : Prop :=
  ∀ (e : Input) (a : Nat) (why : MalReason),
    (∀ b0, e.ibuf.holds a [b0] → a + 1 ≤ e.len → rd8 e a why = .ok b0) ∧
    (e.len < a + 1 → rd8 e a why = .err (.malformed why a)) ∧
    (∀ b0 b1, e.ibuf.holds a [b0, b1] → a + 2 ≤ e.len →
      ∃ v, rd16 e a why = .ok v ∧ v.toNat = b0.toNat * 256 + b1.toNat) ∧
    (e.len < a + 2 → rd16 e a why = .err (.malformed why a)) ∧
    (∀ b0 b1 b2 b3, e.ibuf.holds a [b0, b1, b2, b3] → a + 4 ≤ e.len →
      ∃ v, rd32 e a why = .ok v ∧
        v.toNat = ((b0.toNat * 256 + b1.toNat) * 256 + b2.toNat) * 256 + b3.toNat) ∧
    (e.len < a + 4 → rd32 e a why = .err (.malformed why a)) ∧
    (∀ bs : Bytes, e.ibuf.holds a bs → a + bs.length ≤ e.len → rdSlice e a bs.length why = .ok bs) ∧
    (∀ n, e.len < a + n → rdSlice e a n why = .err (.malformed why a))

/-- A scanner read inside LEN of a byte that the host has not written is the model fault UNINIT_READ
(spec/40_buffer_scanner.md R137), whatever the width. -/
def Obligations.UnwrittenByteInsideLenFaults : Prop :=
  ∀ (e : Input) (a n k : Nat) (why : MalReason), k < n → a + n ≤ e.len → e.ibuf.read (a + k) = none →
    rdSlice e a n why = .fault .uninitRead ∧
    (n = 1 → rd8 e a why = .fault .uninitRead) ∧
    (n = 2 → rd16 e a why = .fault .uninitRead) ∧
    (n = 4 → rd32 e a why = .fault .uninitRead)

-- ---------------------------------------------------------------- name elements

/-- NAME_TERM (spec/41_name_codec.md R152): END becomes P + 1 unless it is set, and the caller gets (ACC, END). CUR
becomes END (R157). An owner name goes to its question or record, whose first fixed field comes next
(spec/43_message_decoder.md R202, R203). A Cname completes its record (spec/42_rdata_codec.md R182), which joins its
section, and IDX grows by 1 (R204). That the caller's part happens in the terminator's own step, and the fields `ctl`,
`use` and `recd` that carry it, are the model's choice (DESIGN CHOICE, log 6). -/
def Obligations.NameTermReturnsTheName : Prop :=
  ∀ (s : State) (fin : Nat), fin = s.name.fin.getD (s.name.p + 1) →
    (s.use = .owner →
      exec .nameTerm s = .next { s with
        name := { s.name with fin := some fin }
        recd := { s.recd with name := s.name.acc }
        cur := fin
        ctl := if s.sect = .question then .qtype else .rtype }) ∧
    (s.use = .cname →
      exec .nameTerm s = .next { s with
        name := { s.name with fin := some fin }
        draft := s.draft.addRecord s.sect ⟨s.recd.name, s.recd.rtype, s.recd.rclass, s.recd.ttl, .cname s.name.acc⟩
        cur := fin
        idx := s.idx + 1
        ctl := .walk })

/-- NAME_LABEL (R153): the label of L bytes after the tag joins ACC and P moves past it; SLICE_TRUNC at P + 1 when the
body passes LEN; Capacity NAME at P when the name outgrows NAME_CAP, checked after the bounds. That ACC stays as it
was where Capacity NAME is raised is the model's choice (DESIGN CHOICE, log 20): the pseudocode appends the label
before it raises. -/
def Obligations.NameLabelAppendsTheLabel : Prop :=
  ∀ (s : State) (len : BitVec 6),
    (s.len < s.name.p + 1 + len.toNat →
      exec (.nameLabel len) s = .next (s.raise .decode (.malformed .sliceTrunc (s.name.p + 1)))) ∧
    (∀ lab : Label, lab.length = len.toNat → s.name.p + 1 + len.toNat ≤ s.len →
      s.ibuf.holds (s.name.p + 1) lab →
      ((∀ cap, s.params.nameCap = some cap → enclen (s.name.acc ++ [lab]) ≤ cap) →
        exec (.nameLabel len) s = .next { s with
          name := { s.name with acc := s.name.acc ++ [lab], p := s.name.p + 1 + len.toNat } }) ∧
      (∀ cap, s.params.nameCap = some cap → cap < enclen (s.name.acc ++ [lab]) →
        exec (.nameLabel len) s = .next (s.raise .decode (.capacity .name s.name.p))))

/-- NAME_EXT_01 and NAME_EXT_10 (R154): under REJECT the error EXT_TAG at P; under AS_LENGTH the label step with the
whole tag value as its length, 64..127 and 128..191. That ACC stays as it was where Capacity NAME is raised is the
model's choice (DESIGN CHOICE, log 20). -/
def Obligations.ExtendedTagsFollowThePolicy : Prop :=
  ∀ (s : State) (low : BitVec 6) (tag : Nat) (i : Instr),
    (i = .nameExt01 low ∧ tag = 64 + low.toNat) ∨ (i = .nameExt10 low ∧ tag = 128 + low.toNat) →
    (s.params.extTagPolicy = .reject →
      exec i s = .next (s.raise .decode (.malformed .extTag s.name.p))) ∧
    (s.params.extTagPolicy = .asLength → s.len < s.name.p + 1 + tag →
      exec i s = .next (s.raise .decode (.malformed .sliceTrunc (s.name.p + 1)))) ∧
    (s.params.extTagPolicy = .asLength →
      ∀ lab : Label, lab.length = tag → s.name.p + 1 + tag ≤ s.len → s.ibuf.holds (s.name.p + 1) lab →
      ((∀ cap, s.params.nameCap = some cap → enclen (s.name.acc ++ [lab]) ≤ cap) →
        exec i s = .next { s with
          name := { s.name with acc := s.name.acc ++ [lab], p := s.name.p + 1 + tag } }) ∧
      (∀ cap, s.params.nameCap = some cap → cap < enclen (s.name.acc ++ [lab]) →
        exec i s = .next (s.raise .decode (.capacity .name s.name.p))))

/-- NAME_PTR (R155): with its second byte missing the step enters NAME_UNTERM at P + 1; a target outside the message
is PTR_RANGE at P; after PTR_LIMIT pointers it is PTR_LIMIT at P; otherwise END becomes P + 2 unless it is set, HOPS
grows by 1 and P jumps to the absolute target. That END stays as it was where PTR_RANGE or PTR_LIMIT is raised is the
model's choice (DESIGN CHOICE, log 20): the pseudocode sets it before it raises. -/
def Obligations.NamePointerJumpsOrFails : Prop :=
  (∀ (s u : State) (t : Byte), s.engineState = some u → u.ctl = .name → u.ibuf.holds u.name.p [t] →
    192 ≤ t.toNat → u.len = u.name.p + 1 →
    step s = .next (u.raise .decode (.malformed .nameUnterm (u.name.p + 1)))) ∧
  (∀ (s : State) (off : BitVec 14),
    (s.len ≤ off.toNat →
      exec (.namePtr off) s = .next (s.raise .decode (.malformed .ptrRange s.name.p))) ∧
    (off.toNat < s.len → s.name.hops = s.params.ptrLimit →
      exec (.namePtr off) s = .next (s.raise .decode (.malformed .ptrLimit s.name.p))) ∧
    (off.toNat < s.len → s.name.hops < s.params.ptrLimit →
      exec (.namePtr off) s = .next { s with
        name := { s.name with
          fin := some (s.name.fin.getD (s.name.p + 2)), hops := s.name.hops + 1, p := off.toNat } }))

/-- The tag fetch (R151): at P = LEN the name is unterminated, and the failing position of a tag fetch is LEN itself in
every state the invariant allows. -/
def Obligations.TagFetchAtLenIsUnterminated : Prop :=
  ∀ s u : State, s.engineState = some u → u.ctl = .name → u.len ≤ u.name.p →
    step s = .next (u.raise .decode (.malformed .nameUnterm u.name.p)) ∧ (u.Inv → u.name.p = u.len)

/-- FRAME of the five name rows: a next state keeps the parameters, both buffers byte by byte, the host's side,
IN_LEN, OUT_LEN, LEN, the counts, SECT, OPOS and the encoder's output; either no error was entered and MSG, STATUS,
ERR_POS and PHASE are kept too, or the error entry wrote them and nothing else changed. NAME_TERM returns the name, so
it may also write CUR, IDX, the record and the message being built; the other four, without an error, write the name
registers only. That an error leaves END and ACC as they were (log 20), and that MSG keeps its value while a DECODE
runs (log 22), are the model's choices (DESIGN CHOICE). -/
def Obligations.NameElementFrame : Prop :=
  ∀ (i : Instr) (s t : State) (len low : BitVec 6) (off : BitVec 14),
    (i = .nameTerm ∨ i = .nameLabel len ∨ i = .nameExt01 low ∨ i = .nameExt10 low ∨ i = .namePtr off) →
    exec i s = .next t →
    (t.params = s.params ∧ t.host = s.host ∧ t.seen = s.seen ∧ t.inLen = s.inLen ∧ t.outLen = s.outLen ∧
      t.len = s.len ∧ t.qd = s.qd ∧ t.an = s.an ∧ t.ns = s.ns ∧ t.ar = s.ar ∧ t.sect = s.sect ∧
      t.opos = s.opos ∧ t.out = s.out ∧ t.use = s.use ∧
      (∀ a, t.ibuf.read a = s.ibuf.read a) ∧ (∀ a, t.obuf.read a = s.obuf.read a)) ∧
    ((∃ e, t = s.raise .decode e) ∨
      (t.msg = s.msg ∧ t.status = s.status ∧ t.errPos = s.errPos ∧ t.phase = s.phase ∧
        (i ≠ .nameTerm → t = { s with name := t.name })))

-- ---------------------------------------------------------------- record data

/-- RD_A and RD_OPAQUE (spec/42_rdata_codec.md R181, R183): RDLENGTH raw bytes at CUR become A(bytes) or Opaque(bytes),
whatever RDLENGTH is; SLICE_TRUNC at CUR when they pass LEN; Capacity RDATA at CUR beyond RDATA_CAP, checked after the
bounds. The record joins the end of the list of the section at hand and no other list (spec/43_message_decoder.md R204),
and CUR moves past the data. That the record carries the instruction's own TYPE, whatever the TYPE register holds, is the
model's choice (DESIGN CHOICE, log 16), and so is that the record joins its section in this very step, with the field `ctl`
(DESIGN CHOICE, log 6). -/
def Obligations.RawRecordDataIsCopied : Prop :=
  (∀ (m : Message) (r : ResourceRecord),
    m.addRecord .answer r = { m with answers := m.answers ++ [r] } ∧
    m.addRecord .authority r = { m with authority := m.authority ++ [r] } ∧
    m.addRecord .additional r = { m with additional := m.additional ++ [r] }) ∧
  ∀ (s : State) (i : Instr) (t : U16) (variant : Bytes → RData),
    (i = .rdA ∧ t = 0x0001#16 ∧ variant = RData.a) ∨ (i = .rdOpaque t ∧ variant = RData.opaq) →
    (s.len < s.cur + s.recd.rdlen.toNat →
      exec i s = .next (s.raise .decode (.malformed .sliceTrunc s.cur))) ∧
    (∀ b : Bytes, b.length = s.recd.rdlen.toNat → s.cur + s.recd.rdlen.toNat ≤ s.len → s.ibuf.holds s.cur b →
      ((∀ cap, s.params.rdataCap = some cap → s.recd.rdlen.toNat ≤ cap) →
        exec i s = .next { s with
          draft := s.draft.addRecord s.sect ⟨s.recd.name, t, s.recd.rclass, s.recd.ttl, variant b⟩
          cur := s.cur + s.recd.rdlen.toNat
          idx := s.idx + 1
          ctl := .walk }) ∧
      (∀ cap, s.params.rdataCap = some cap → cap < s.recd.rdlen.toNat →
        exec i s = .next (s.raise .decode (.capacity .rdata s.cur))))

/-- RD_CNAME (R182): the name decoder starts at CUR over the whole IBUF with HOPS 0. To its end: when DEC_NAME at CUR
gives (n, q), the machine comes to the state in which the record with Cname(n) has joined its section and CUR is q; when it
raises an error, the command ends with that error; when it reads an unwritten byte, the run ends in the model fault (log 5).
RDLENGTH takes no part. The model's choices in it (DESIGN CHOICE): TYPE 5 is written to the record, whatever the TYPE
register holds (log 16); the run is by the model's own steps (log 6) and with an empty host list (log 2). -/
def Obligations.CnameRecordRunsToItsName : Prop :=
  ∀ s : State,
    exec .rdCname s = .next { s with
      recd := { s.recd with rtype := 0x0005#16 }
      name := { p := s.cur, fin := none, hops := 0, acc := [] }
      use := .cname
      ctl := .name } ∧
    (s.phase = .busy → s.host = [] → ∃ k t0, exec .rdCname s = .next t0 ∧
      match decName s.input s.cur with
      | none => False
      | some (.ok (n, q)) => ∃ t, runSteps k t0 = .next t ∧
          t.draft = s.draft.addRecord s.sect ⟨s.recd.name, 0x0005#16, s.recd.rclass, s.recd.ttl, .cname n⟩ ∧
          t.cur = q ∧ t.idx = s.idx + 1 ∧ t.ctl = .walk ∧ t.phase = .busy ∧ t.sect = s.sect
      | some (.err e) => ∃ t, runSteps k t0 = .next t ∧ t.phase = .idle ∧ t.msg = none ∧
          t.status = statusFailure e ∧ t.errPos.toNat = errPosition e % 65536
      | some (.fault f) => runSteps k t0 = .fault f)

/-- FRAME of the three record-data rows: a next state keeps the parameters, both buffers byte by byte, the host's
side, IN_LEN, OUT_LEN, LEN, the counts, SECT, OPOS, the encoder's output and the message's id, flags and questions;
either no error was entered and MSG, STATUS, ERR_POS and PHASE are kept too, or the error entry wrote them and nothing
else changed. RD_A and RD_OPAQUE keep the name registers; RD_CNAME keeps CUR, IDX and the message being built. That
MSG keeps its value while a DECODE runs is the model's choice (DESIGN CHOICE, log 22). -/
def Obligations.RecordDataFrame : Prop :=
  ∀ (i : Instr) (s t : State) (rt : U16),
    (i = .rdA ∨ i = .rdCname ∨ i = .rdOpaque rt) → exec i s = .next t →
    (t.params = s.params ∧ t.host = s.host ∧ t.seen = s.seen ∧ t.inLen = s.inLen ∧ t.outLen = s.outLen ∧
      t.len = s.len ∧ t.qd = s.qd ∧ t.an = s.an ∧ t.ns = s.ns ∧ t.ar = s.ar ∧ t.sect = s.sect ∧
      t.opos = s.opos ∧ t.out = s.out ∧ t.draft.id = s.draft.id ∧ t.draft.flags = s.draft.flags ∧
      t.draft.questions = s.draft.questions ∧
      (∀ a, t.ibuf.read a = s.ibuf.read a) ∧ (∀ a, t.obuf.read a = s.obuf.read a)) ∧
    ((∃ e, t = s.raise .decode e) ∨
      (t.msg = s.msg ∧ t.status = s.status ∧ t.errPos = s.errPos ∧ t.phase = s.phase ∧
        (i ≠ .rdCname → t.name = s.name ∧ t.recd = s.recd ∧ t.use = s.use) ∧
        (i = .rdCname → t.cur = s.cur ∧ t.idx = s.idx ∧ t.draft = s.draft)))

-- ---------------------------------------------------------------- commands

/-- NOP (spec/45_host_commands.md R241): nothing changes, in either phase; a host write to CMD of a word whose low byte
is 0 is one (R240), and the step that takes it only takes the write off the host's program. -/
def Obligations.NopChangesNothing : Prop :=
  (∀ (x : BitVec 24) (s : State), exec (.cmdNop x) s = .next s) ∧
  (∀ (s : State) (v : U32) (rest : List HostEvent), v.toNat % 256 = 0 →
    s.host = .bus (.write 0x00#18 .w32 v) :: rest → step s = .next { s with host := rest })

/-- A CMD write while BUSY is ignored (R245): it starts no command, changes no state and is not queued. -/
def Obligations.CommandWhileBusyIsIgnored : Prop :=
  ∀ (s : State) (v : U32) (rest : List HostEvent), s.phase = .busy →
    s.host = .bus (.write 0x00#18 .w32 v) :: rest → step s = .next { s with host := rest }

/-- Acceptance of DECODE while IDLE (R242, the acceptance part): LEN is latched from IN_LEN, CUR is 0, PHASE is BUSY,
STATUS is BUSY alone; IBUF, OBUF, MSG, IN_LEN, OUT_LEN and ERR_POS keep their values. That MSG keeps its value, now
BUSY, is the model's choice (DESIGN CHOICE, log 22). -/
def Obligations.DecodeIsAccepted : Prop :=
  ∀ (s : State) (x : BitVec 24), s.phase = .idle →
    ∃ t, exec (.cmdDecode x) s = .next t ∧ t.len = s.inLen.toNat ∧ t.cur = 0 ∧ t.phase = .busy ∧
      t.status = 0x00000001#32 ∧ t.ibuf = s.ibuf ∧ t.obuf = s.obuf ∧ t.msg = s.msg ∧ t.inLen = s.inLen ∧
      t.outLen = s.outLen ∧ t.errPos = s.errPos ∧ t.params = s.params

/-- Acceptance of ENCODE while IDLE (R243, the acceptance part). That OBUF keeps its value, now BUSY, is the model's
choice (DESIGN CHOICE, log 7). -/
def Obligations.EncodeIsAccepted : Prop :=
  ∀ (s : State) (x : BitVec 24), s.phase = .idle →
    ∃ t, exec (.cmdEncode x) s = .next t ∧ t.phase = .busy ∧ t.opos = 0 ∧
      t.status = 0x00000001#32 ∧ t.ibuf = s.ibuf ∧ t.obuf = s.obuf ∧ t.msg = s.msg ∧ t.inLen = s.inLen ∧
      t.outLen = s.outLen ∧ t.errPos = s.errPos ∧ t.params = s.params

/-- An illegal command while IDLE (R244): STATUS is DONE, ERR, kind 4 and the opcode as reason, ERR_POS is 0, in one
event with the CMD write; PHASE stays IDLE and nothing else changes. -/
def Obligations.IllegalCommandReportsItsOpcode : Prop :=
  (∀ (s : State) (x : BitVec 24) (o : Byte), s.phase = .idle →
    exec (.cmdIllegal x o) s = .next { s with
      status := (o.setWidth 32 <<< 8) ||| 0x46#32
      errPos := 0#16
      phase := .idle }) ∧
  (∀ (s : State) (v : U32) (rest : List HostEvent), s.phase = .idle →
    s.host = .bus (.write 0x00#18 .w32 v) :: rest → 3 ≤ v.toNat % 256 →
    step s = .next { s with
      host := rest
      status := ((v &&& 0xFF#32) <<< 8) ||| 0x46#32
      errPos := 0#16
      phase := .idle })

/-- FRAME of the four command rows: a next state keeps the parameters, IBUF and OBUF byte by byte, MSG, IN_LEN,
OUT_LEN and the host's side; only an illegal command writes ERR_POS; the datapath registers change only where a
command that starts initialises them. That MSG and OBUF keep their values once a command is accepted is the model's
choice (DESIGN CHOICE, logs 22 and 7). -/
def Obligations.CommandFrame : Prop :=
  ∀ (i : Instr) (s t : State) (x : BitVec 24) (o : Byte),
    (i = .cmdNop x ∨ i = .cmdDecode x ∨ i = .cmdEncode x ∨ i = .cmdIllegal x o) → exec i s = .next t →
    t.params = s.params ∧ t.msg = s.msg ∧ t.inLen = s.inLen ∧ t.outLen = s.outLen ∧
    t.host = s.host ∧ t.seen = s.seen ∧
    (∀ a, t.ibuf.read a = s.ibuf.read a) ∧ (∀ a, t.obuf.read a = s.obuf.read a) ∧
    (i ≠ .cmdIllegal x o → t.errPos = s.errPos) ∧
    t.name = s.name ∧ t.recd = s.recd ∧ t.use = s.use ∧ t.qd = s.qd ∧ t.an = s.an ∧ t.ns = s.ns ∧ t.ar = s.ar ∧
    (i ≠ .cmdDecode x → t.len = s.len ∧ t.cur = s.cur ∧ t.sect = s.sect ∧ t.idx = s.idx ∧ t.draft = s.draft) ∧
    (i ≠ .cmdEncode x → t.opos = s.opos ∧ t.out = s.out)

-- ---------------------------------------------------------------- errors

/-- Error entry (spec/60_exceptions.md R269), and the numbers of the kinds and reasons and the position of every error
(R260 to R264, R266): STATUS is DONE and ERR with the kind in 7:4 and the reason in 15:8, ERR_POS the position, PHASE IDLE;
a failed DECODE leaves MSG ⊥, a failed ENCODE leaves OBUF all ⊥ and OUT_LEN 0; nothing else is written. -/
def Obligations.ErrorEntryWritesStatusAndDropsResults : Prop :=
  (∀ (s : State) (e : Err),
    statusFailure e = 0x6#32 ||| ((errKind e).setWidth 32 <<< 4) ||| ((errReason e).setWidth 32 <<< 8) ∧
    s.raise .decode e = { s with
      msg := none, status := statusFailure e, errPos := BitVec.ofNat 16 (errPosition e), phase := .idle } ∧
    s.raise .encode e = { s with
      obuf := [], outLen := 0#16, status := statusFailure e, errPos := BitVec.ofNat 16 (errPosition e),
      phase := .idle }) ∧
  ((∀ why p, errKind (.malformed why p) = 1#4 ∧ errPosition (.malformed why p) = p) ∧
    (∀ why p, errKind (.invalidName why p) = 2#4 ∧ errPosition (.invalidName why p) = p) ∧
    (∀ why p, errKind (.capacity why p) = 3#4 ∧ errPosition (.capacity why p) = p) ∧
    (∀ o, errKind (.illegalCmd o) = 4#4 ∧ errReason (.illegalCmd o) = o ∧ errPosition (.illegalCmd o) = 0)) ∧
  (∀ p : Nat,
    (errReason (.malformed .hdrTrunc p) = 1#8 ∧ errReason (.malformed .fieldTrunc p) = 2#8 ∧
      errReason (.malformed .sliceTrunc p) = 3#8 ∧ errReason (.malformed .nameUnterm p) = 4#8 ∧
      errReason (.malformed .ptrRange p) = 5#8 ∧ errReason (.malformed .ptrLimit p) = 6#8 ∧
      errReason (.malformed .extTag p) = 7#8) ∧
    errReason (.invalidName .labelTooLong p) = 1#8 ∧
    (errReason (.capacity .ibuf p) = 1#8 ∧ errReason (.capacity .name p) = 2#8 ∧
      errReason (.capacity .records p) = 3#8 ∧ errReason (.capacity .rdata p) = 4#8 ∧
      errReason (.capacity .count16 p) = 5#8 ∧ errReason (.capacity .rdlen16 p) = 6#8 ∧
      errReason (.capacity .obuf p) = 7#8))

/-- The errors of each command (spec/60_exceptions.md R260, R266): DECODE raises no INVALID_NAME and its positions are
offsets at most LEN; ENCODE raises no MALFORMED_MESSAGE and its positions are output offsets at most OBUF_CAP. -/
def Obligations.ErrorsFitTheirCommand : Prop :=
  (∀ (e : Input) (x : Err), decodeResult e = some (.err x) →
    errPosition x ≤ e.len ∧ (errKind x = 1#4 ∨ errKind x = 3#4)) ∧
  (∀ (p : Params) (m : Message) (x : Err), encodeResult p m = .error x →
    errPosition x ≤ p.obufCap ∧ (errKind x = 2#4 ∨ errKind x = 3#4))

-- ---------------------------------------------------------------- the decode procedures

/-- Every name decode ends within the bound of spec/41_name_codec.md R159, whatever the input. -/
def Obligations.NameDecodeTerminates : Prop :=
  ∀ (e : Input) (start : Nat), start ≤ e.len → decName e start ≠ none

/-- A name that decodes advances the cursor by at least one byte and never past LEN (R157 with spec/10_state.md R43). -/
def Obligations.NameDecodeAdvancesInsideLen : Prop :=
  ∀ (e : Input) (start : Nat) (n : DomainName) (next : Nat),
    decName e start = some (.ok (n, next)) → start < next ∧ next ≤ e.len

/-- A name spelled in full decodes to its labels, and its field is its encoded length long
(spec/41_name_codec.md R150, R152, R153, R157). -/
def Obligations.SpelledNameDecodesToItself : Prop :=
  ∀ (e : Input) (start : Nat) (n : DomainName) (bs : Bytes),
    plainName n = true → encName e.params.labelEncMax n 0 = .ok bs → e.ibuf.holds start bs →
    start + bs.length ≤ e.len → (∀ cap, e.params.nameCap = some cap → enclen n ≤ cap) →
    bs.length = enclen n ∧ decName e start = some (.ok (n, start + enclen n))

/-- A pointer splices its target (R155, R160): if a name field spells the labels `pre` and then a pointer to `off`, and
it decodes, then the name at `off` decodes, the result is `pre` followed by it, and the field ends two bytes after the
spelled labels, whatever the target occupies. -/
def Obligations.PointerSplicesItsTarget : Prop :=
  ∀ (e : Input) (start : Nat) (pre : DomainName) (bs : Bytes) (off : BitVec 14) (n : DomainName) (next : Nat),
    plainName pre = true → encName e.params.labelEncMax pre 0 = .ok (bs ++ [0x00#8]) →
    e.ibuf.holds start (bs ++ be16 (0b11#2 ++ off)) →
    decName e start = some (.ok (n, next)) →
    next = start + bs.length + 2 ∧
    ∃ rest q, decName e off.toNat = some (.ok (rest, q)) ∧ n = pre ++ rest

/-- A pointer to itself is refused with PTR_LIMIT at its own offset, for every PTR_LIMIT (R155, R156). -/
def Obligations.SelfPointerHitsThePointerLimit : Prop :=
  ∀ (e : Input) (off : BitVec 14), e.ibuf.holds off.toNat (be16 (0b11#2 ++ off)) → off.toNat + 2 ≤ e.len →
    decName e off.toNat = some (.err (.malformed .ptrLimit off.toNat))

/-- A decode's result is a function of IBUF[0..LEN), LEN and the parameters alone
(spec/40_buffer_scanner.md R136, spec/43_message_decoder.md R208). -/
def Obligations.DecodeDependsOnlyOnBytesBelowLen : Prop :=
  ∀ e f : Input, sameBelowLen e f → decodeResult e = decodeResult f

/-- What a successful DECODE_MSG gives (spec/43_message_decoder.md R207): each list has exactly the count the header
holds for it, every variant agrees with its TYPE, and under REJECT every label of every name has length 1..63. -/
def Obligations.DecodedMessageIsWellShaped : Prop :=
  ∀ (e : Input) (m : Message) (c : Nat), decodeMsg e = some (.ok (m, c)) →
    (rd16 e 4 .hdrTrunc = .ok (BitVec.ofNat 16 m.questions.length) ∧ m.questions.length < 65536) ∧
    (rd16 e 6 .hdrTrunc = .ok (BitVec.ofNat 16 m.answers.length) ∧ m.answers.length < 65536) ∧
    (rd16 e 8 .hdrTrunc = .ok (BitVec.ofNat 16 m.authority.length) ∧ m.authority.length < 65536) ∧
    (rd16 e 10 .hdrTrunc = .ok (BitVec.ofNat 16 m.additional.length) ∧ m.additional.length < 65536) ∧
    (∀ r ∈ m.answers ++ m.authority ++ m.additional, variantAgrees r = true) ∧
    (e.params.extTagPolicy = .reject →
      (∀ q ∈ m.questions, plainName q.name = true) ∧
      (∀ r ∈ m.answers ++ m.authority ++ m.additional, plainName r.name = true ∧
        ∀ n, r.rdata = .cname n → plainName n = true))

/-- What DECODE stores respects the store's capacities (spec/00_scope.md R10 to R12, spec/43_message_decoder.md R205). -/
def Obligations.DecodedMessageFitsTheStore : Prop :=
  ∀ (e : Input) (m : Message) (c : Nat), e.params.legal = true → decodeMsg e = some (.ok (m, c)) →
    messageFits e.params m = true

/-- Every truncated prefix of a message that decodes without trailing bytes fails with MalformedMessage
(spec/43_message_decoder.md R210). -/
def Obligations.TruncatedPrefixIsMalformed : Prop :=
  ∀ (e : Input) (m : Message), decodeMsg e = some (.ok (m, e.len)) →
    ∀ n, n < e.len → ∃ why pos, decodeMsg { e with len := n } = some (.err (.malformed why pos))

/-- A short header fails with HDR_TRUNC at 2 * floor(LEN / 2) (spec/43_message_decoder.md R201). -/
def Obligations.ShortHeaderIsTruncated : Prop :=
  ∀ e : Input, e.len < 12 → e.ibuf.written 0 e.len →
    decodeMsg e = some (.err (.malformed .hdrTrunc (2 * (e.len / 2))))

/-- The errors of DEC_QUESTION and DEC_RR (spec/43_message_decoder.md R202, R203): the name's own error comes first; then
FIELD_TRUNC at the offset of the first fixed field that passes LEN, the fields before it being written: QTYPE at q and
QCLASS at q + 2, TYPE at q, CLASS at q + 2, TTL at q + 4, RDLENGTH at q + 8, where q is where the owner name ends. -/
def Obligations.TruncatedFieldsAreAtTheirOffsets : Prop :=
  ∀ (e : Input) (p : Nat),
    (∀ x, decName e p = some (.err x) → decQuestion e p = some (.err x) ∧ decRecord e p = some (.err x)) ∧
    (∀ (n : DomainName) (q : Nat), decName e p = some (.ok (n, q)) →
      (e.len < q + 2 →
        decQuestion e p = some (.err (.malformed .fieldTrunc q)) ∧
        decRecord e p = some (.err (.malformed .fieldTrunc q))) ∧
      (q + 2 ≤ e.len → e.len < q + 4 → e.ibuf.written q 2 →
        decQuestion e p = some (.err (.malformed .fieldTrunc (q + 2))) ∧
        decRecord e p = some (.err (.malformed .fieldTrunc (q + 2)))) ∧
      (q + 4 ≤ e.len → e.len < q + 8 → e.ibuf.written q 4 →
        decRecord e p = some (.err (.malformed .fieldTrunc (q + 4)))) ∧
      (q + 8 ≤ e.len → e.len < q + 10 → e.ibuf.written q 8 →
        decRecord e p = some (.err (.malformed .fieldTrunc (q + 8)))))

/-- DEC_SECTION (spec/43_message_decoder.md R204, R205), for either record procedure: with no record to go it reads nothing;
with REC_CAP reached it is Capacity REC at CUR, before the record is read; otherwise the record is read at CUR, its error
is the section's, and the rest of the section follows where it ends, in wire order, its error being the section's too. -/
def Obligations.SectionWalkerChecksCapacityFirst : Prop :=
  ∀ (α : Type) (e : Input) (dec : Nat → Proc (α × Nat)) (left idx cur : Nat),
    decSection e dec 0 idx cur = some (.ok ([], cur)) ∧
    (∀ cap, e.params.recCap = some cap → cap ≤ idx →
      decSection e dec (left + 1) idx cur = some (.err (.capacity .records cur))) ∧
    ((∀ cap, e.params.recCap = some cap → idx < cap) →
      (∀ x, dec cur = some (.err x) → decSection e dec (left + 1) idx cur = some (.err x)) ∧
      (∀ r c, dec cur = some (.ok (r, c)) →
        (∀ x, decSection e dec left (idx + 1) c = some (.err x) →
          decSection e dec (left + 1) idx cur = some (.err x)) ∧
        (∀ rs q, decSection e dec left (idx + 1) c = some (.ok (rs, q)) →
          decSection e dec (left + 1) idx cur = some (.ok (r :: rs, q)))))

/-- The same errors as steps of the machine (spec/43_message_decoder.md R202 to R205, spec/60_exceptions.md R267): a fixed
field of a record that passes LEN is FIELD_TRUNC at CUR, and a record beyond REC_CAP is Capacity REC at CUR. Which step
comes next is the model's field `ctl` (DESIGN CHOICE, log 6), and whose turn it is, is the model's (DESIGN CHOICE, log 2). -/
def Obligations.WalkerErrorsAreRaisedAtCur : Prop :=
  ∀ s u : State, s.engineState = some u →
    (u.ctl = .qtype ∨ u.ctl = .qclass ∨ u.ctl = .rtype ∨ u.ctl = .rclass ∨ u.ctl = .rdlength →
      u.len < u.cur + 2 → step s = .next (u.raise .decode (.malformed .fieldTrunc u.cur))) ∧
    (u.ctl = .ttl → u.len < u.cur + 4 → step s = .next (u.raise .decode (.malformed .fieldTrunc u.cur))) ∧
    (∀ cap, u.ctl = .walk → u.idx < u.sectCount → u.params.recCap = some cap → cap ≤ u.idx →
      step s = .next (u.raise .decode (.capacity .records u.cur)))

-- ---------------------------------------------------------------- the encode procedures

/-- Round trip (spec/44_message_encoder.md R229): a well-formed message is encoded, and decoding its bytes gives it
back, for every parameter value. -/
def Obligations.RoundTripOfWellFormedMessages : Prop :=
  ∀ (p : Params) (m : Message), wellFormedMessage p m = true →
    ∃ bs, encCore p.labelEncMax m = .ok bs ∧
      (bs.length ≤ p.obufCap → bs.length ≤ p.ibufCap →
        encodeResult p m = .ok bs ∧
        ∀ ibuf : Memory, ibuf.holds 0 bs →
          decodeResult { ibuf := ibuf, len := bs.length, params := p } = some (.ok (m, bs.length)))

/-- The header of an encoded message carries the id, the flags and the actual list lengths
(spec/44_message_encoder.md R221). A list longer than 65535 is Capacity COUNT16 at its count's offset, the first one
first, whatever else the message holds (R222). -/
def Obligations.EncodedCountsAreListLengths : Prop :=
  ∀ (max : LabelEncMax) (m : Message),
    (∀ bs : Bytes, encCore max m = .ok bs →
      m.questions.length ≤ 65535 ∧ m.answers.length ≤ 65535 ∧ m.authority.length ≤ 65535 ∧
      m.additional.length ≤ 65535 ∧
      ∃ body, bs = be16 m.id ++ be16 m.flags ++ be16 (BitVec.ofNat 16 m.questions.length) ++
        be16 (BitVec.ofNat 16 m.answers.length) ++ be16 (BitVec.ofNat 16 m.authority.length) ++
        be16 (BitVec.ofNat 16 m.additional.length) ++ body) ∧
    (65535 < m.questions.length → encCore max m = .error (.capacity .count16 4)) ∧
    (m.questions.length ≤ 65535 → 65535 < m.answers.length → encCore max m = .error (.capacity .count16 6)) ∧
    (m.questions.length ≤ 65535 → m.answers.length ≤ 65535 → 65535 < m.authority.length →
      encCore max m = .error (.capacity .count16 8)) ∧
    (m.questions.length ≤ 65535 → m.answers.length ≤ 65535 → m.authority.length ≤ 65535 →
      65535 < m.additional.length → encCore max m = .error (.capacity .count16 10))

/-- A label longer than LABEL_ENC_MAX fails the encode of its name at the offset its length byte would have, and without
one the name encodes to enclen(n) bytes (spec/41_name_codec.md R161, R162). -/
def Obligations.NameEncodeChecksLabelLengths : Prop :=
  ∀ (max : LabelEncMax) (n : DomainName) (base limit : Nat),
    limit = (match max with | .max255 => 255 | .max63 => 63) →
    ((∀ l ∈ n, l.length ≤ limit) → ∃ bs, encName max n base = .ok bs ∧ bs.length = enclen n) ∧
    (∀ pre l post, n = pre ++ l :: post → (∀ k ∈ pre, k.length ≤ limit) → limit < l.length →
      encName max n base = .error (.invalidName .labelTooLong (base + enclen pre - 1)))

/-- An encoded record carries the byte length of its encoded data as RDLENGTH, never a stored value
(spec/44_message_encoder.md R224, R225). -/
def Obligations.EncodedRdlengthIsDerived : Prop :=
  ∀ (max : LabelEncMax) (r : ResourceRecord) (base : Nat) (nb rd : Bytes),
    encName max r.name base = .ok nb → encRdata max r.rdata (base + nb.length + 10) = .ok rd →
    (rd.length ≤ 65535 →
      encRecord max r base = .ok (nb ++ be16 r.rtype ++ be16 r.rclass ++ be32 r.ttl ++
        be16 (BitVec.ofNat 16 rd.length) ++ rd)) ∧
    (65535 < rd.length → encRecord max r base = .error (.capacity .rdlen16 (base + nb.length + 8)))

-- ---------------------------------------------------------------- whole commands

/-- DECODE to its end (spec/45_host_commands.md R242): acceptance latches LEN and makes the machine BUSY with STATUS BUSY
alone; from there the machine comes, by its own steps, to the completion that the procedure's result calls for: MSG holds
the message, or MSG is ⊥ and STATUS and ERR_POS report the first error in scan order; an unwritten byte ends the run in
the model fault. OBUF, OUT_LEN, IBUF, IN_LEN and the host's side are unchanged. It never goes on for ever. The run is by
the model's own steps (DESIGN CHOICE, log 6) and with an empty host list (DESIGN CHOICE, log 2), and that the fault ends it
is the model's (DEDUCED, log 5). -/
def Obligations.DecodeCommandRunsToItsResult : Prop :=
  ∀ (s : State) (x : BitVec 24), s.phase = .idle → s.host = [] →
    ∃ k t0, exec (.cmdDecode x) s = .next t0 ∧
      t0.len = s.inLen.toNat ∧ t0.phase = .busy ∧ t0.status = 0x00000001#32 ∧
      match decodeResult { ibuf := s.ibuf, len := s.inLen.toNat, params := s.params } with
      | none => False
      | some (.fault f) => runSteps k t0 = .fault f
      | some (.err e) => ∃ t, runSteps k t0 = .next t ∧ t.phase = .idle ∧ t.msg = none ∧
          t.status = statusFailure e ∧ t.errPos = BitVec.ofNat 16 (errPosition e) ∧
          t.ibuf = s.ibuf ∧ t.obuf = s.obuf ∧ t.inLen = s.inLen ∧ t.outLen = s.outLen ∧
          t.params = s.params ∧ t.host = s.host ∧ t.seen = s.seen
      | some (.ok (m, c)) => ∃ t, runSteps k t0 = .next t ∧ t.phase = .idle ∧ t.msg = some m ∧ t.cur = c ∧
          t.status = 0x00000002#32 ∧ t.errPos = 0#16 ∧
          t.ibuf = s.ibuf ∧ t.obuf = s.obuf ∧ t.inLen = s.inLen ∧ t.outLen = s.outLen ∧
          t.params = s.params ∧ t.host = s.host ∧ t.seen = s.seen

/-- ENCODE to its end (spec/45_host_commands.md R243, spec/44_message_encoder.md R226, spec/20_memory.md R68): acceptance
makes the machine BUSY with STATUS BUSY alone; with MSG holding `m`, it comes to the completion that R226's table calls
for: exactly OBUF[0..|B|) is written and OUT_LEN is |B|, or every OBUF byte is ⊥ and OUT_LEN is 0; MSG, IBUF and IN_LEN
are unchanged. With MSG = ⊥ the run ends in the model fault UNINIT_READ. The second part is R226's table, row by row. The
run is by the model's own steps (DESIGN CHOICE, log 6) and with an empty host list (DESIGN CHOICE, log 2), and that the
fault ends it is the model's (DEDUCED, log 5). -/
def Obligations.EncodeCommandRunsToItsResult : Prop :=
  (∀ (s : State) (x : BitVec 24), s.phase = .idle → s.host = [] →
    ∃ k t0, exec (.cmdEncode x) s = .next t0 ∧
      t0.phase = .busy ∧ t0.status = 0x00000001#32 ∧
      match s.msg with
      | none => runSteps k t0 = .fault .uninitRead
      | some m => ∃ t, runSteps k t0 = .next t ∧ t.phase = .idle ∧ t.msg = some m ∧ t.ibuf = s.ibuf ∧
          t.inLen = s.inLen ∧ t.params = s.params ∧ t.host = s.host ∧ t.seen = s.seen ∧
          match encodeResult s.params m with
          | .ok bs => t.status = 0x00000002#32 ∧ t.errPos = 0#16 ∧ t.outLen = BitVec.ofNat 16 bs.length ∧
              (∀ a, t.obuf.read a = if a < bs.length then bs[a]? else s.obuf.read a)
          | .error e => t.status = statusFailure e ∧ t.errPos = BitVec.ofNat 16 (errPosition e) ∧
              t.outLen = 0#16 ∧ (∀ a, t.obuf.read a = none)) ∧
  (∀ (p : Params) (m : Message),
    (∀ b, encCore p.labelEncMax m = .ok b →
      (b.length ≤ p.obufCap → encodeResult p m = .ok b) ∧
      (p.obufCap < b.length → encodeResult p m = .error (.capacity .obuf p.obufCap))) ∧
    (∀ e, encCore p.labelEncMax m = .error e →
      (errPosition e ≤ p.obufCap → encodeResult p m = .error e) ∧
      (p.obufCap < errPosition e → encodeResult p m = .error (.capacity .obuf p.obufCap))))

/-- The order of DECODE's first check: IN_LEN above IBUF_CAP is Capacity IBUF at 0 before any read
(spec/60_exceptions.md R267, spec/10_state.md R34). -/
def Obligations.InputLongerThanIbufIsRefusedFirst : Prop :=
  ∀ s u : State, s.engineState = some u → u.ctl = .decodeStart → u.params.ibufCap < u.len →
    step s = .next (u.raise .decode (.capacity .ibuf 0))

-- ---------------------------------------------------------------- invariants and whole-machine rules

/-- The invariant holds right after reset, for every legal instance. spec/10_state.md R51 leaves CUR, HOPS, LEN and OPOS
unspecified at reset: the invariant's clauses about them and about the staged output (curBound, segmentBound, endBound,
hopsBound, lenBound, outputCount, outputFits) hold there only by the values the model gives them (DESIGN CHOICE, log 4). -/
def Obligations.ResetMeetsInvariant : Prop :=
  ∀ p : Params, p.legal = true → (State.resetWith p).Inv

/-- Every step keeps the invariant: canonical buffers inside their capacities, legal STATUS words, BUSY exactly when PHASE
is BUSY, cursors inside LEN, HOPS at most PTR_LIMIT, the output inside OBUF (staged until completion: log 7). -/
def Obligations.StepKeepsInvariant : Prop :=
  ∀ s t : State, s.Inv → step s = .next t → t.Inv

/-- What reset leaves (spec/10_state.md R51, spec/70_reset_and_hazards.md R290, R291): in either phase the registers are at
their reset values, PHASE is IDLE, IBUF, OBUF and MSG hold no value, the parameters stay. -/
def Obligations.ResetEventGivesTheResetState : Prop :=
  ∀ (s : State) (rest : List HostEvent), s.host = .reset :: rest →
    ∃ t, step s = .next t ∧ t.status = 0#32 ∧ t.inLen = 0#16 ∧ t.outLen = 0#16 ∧ t.errPos = 0#16 ∧
      t.phase = .idle ∧ t.msg = none ∧ (∀ a, t.ibuf.read a = none) ∧ (∀ a, t.obuf.read a = none) ∧
      t.params = s.params ∧ t.host = rest

/-- Internal steps change no host-visible state (spec/45_host_commands.md R240, spec/10_state.md R48): while a step of
DNSC leaves it BUSY, STATUS, MSG, OBUF, OUT_LEN and ERR_POS are unchanged; and no step of DNSC, completion included,
changes IBUF, IN_LEN, the parameters or what the host has seen. What one internal step is, is the model's (DESIGN CHOICE,
log 6). That OBUF keeps its bytes while BUSY (log 7) and that MSG keeps its value while BUSY (log 22) are the model's too
(DESIGN CHOICE): spec/20_memory.md R68 lets the block write a prefix of OBUF, and spec/45_host_commands.md R247 does not
say what OBUF or MSG hold during BUSY. -/
def Obligations.InternalStepsAreInvisible : Prop :=
  ∀ s u t : State, s.engineState = some u → step s = .next t →
    t.ibuf = s.ibuf ∧ t.inLen = s.inLen ∧ t.params = s.params ∧ t.seen = s.seen ∧
    (t.phase = .busy →
      t.status = s.status ∧ t.msg = s.msg ∧ t.obuf = s.obuf ∧ t.outLen = s.outLen ∧ t.errPos = s.errPos)

/-- IBUF changes only by a host byte write in its window or by reset (spec/10_state.md R28, spec/20_memory.md R65). -/
def Obligations.OnlyTheHostWritesIbuf : Prop :=
  ∀ s t : State, step s = .next t → t.ibuf ≠ s.ibuf →
    (∃ rest, s.host = .reset :: rest) ∨
    (s.phase = .idle ∧ ∃ addr data rest, s.host = .bus (.write addr .w8 data) :: rest ∧
      0x10000 ≤ addr.toNat ∧ addr.toNat < 0x10000 + s.params.ibufCap)

/-- STATUS is written only at acceptance, at completion, at an illegal command and at reset (spec/10_state.md R50). -/
def Obligations.StatusChangesOnlyAtCommandsAndReset : Prop :=
  ∀ s t : State, step s = .next t → t.status ≠ s.status →
    (∃ rest, s.host = .reset :: rest) ∨
    (s.phase = .idle ∧ ∃ v rest, s.host = .bus (.write 0x00#18 .w32 v) :: rest ∧ v.toNat % 256 ≠ 0) ∨
    (s.phase = .busy ∧ t.phase = .idle ∧ s.engineState ≠ none)

/-- No step changes the parameters (spec/70_reset_and_hazards.md R290). -/
def Obligations.ParametersNeverChange : Prop :=
  ∀ s t : State, step s = .next t → t.params = s.params

-- ---------------------------------------------------------------- the host interface

/-- What an aligned 32-bit read of the register block returns (spec/10_state.md R31 to R41): reads have no side effect
but that the host has seen the value. OUT_LEN and ERR_POS are read while IDLE. That they show a command's results from its
completion on, before the host has read STATUS with BUSY = 0, is the model's (DEDUCED, log 14):
spec/20_memory.md R75 promises no earlier read any of them. -/
def Obligations.RegisterReadsReturnTheirValues : Prop :=
  ∀ (s : State) (addr : BitVec 18) (rest : List HostEvent) (v : U32),
    s.host = .bus (.read addr .w32) :: rest → addr.toNat % 4 = 0 → addr.toNat < 0x100 →
    (addr.toNat = 0x0C ∨ addr.toNat = 0x10 → s.phase = .idle) →
    v.toNat = (if addr.toNat = 0x04 then s.status.toNat
      else if addr.toNat = 0x08 then s.inLen.toNat
      else if addr.toNat = 0x0C then s.outLen.toNat
      else if addr.toNat = 0x10 then s.errPos.toNat
      else if addr.toNat = 0x14 then s.params.ptrLimit % 65536
      else if addr.toNat = 0x18 then
        (if s.params.extTagPolicy = .asLength then 1 else 0) + (if s.params.labelEncMax = .max63 then 2 else 0)
      else if addr.toNat = 0x1C then s.params.ibufCap % 65536
      else if addr.toNat = 0x20 then s.params.obufCap % 65536
      else 0) →
    step s = .next { s with host := rest, seen := s.seen ++ [.word v] }

/-- What an aligned 32-bit write of the register block other than CMD does (spec/10_state.md R31, R34, R41): IN_LEN keeps
bits 15:0, in either phase; every other register ignores it. -/
def Obligations.RegisterWritesOnlyReachInLen : Prop :=
  ∀ (s : State) (addr : BitVec 18) (data : U32) (rest : List HostEvent),
    s.host = .bus (.write addr .w32 data) :: rest → addr.toNat % 4 = 0 → addr.toNat < 0x100 → addr.toNat ≠ 0 →
    ∃ t, step s = .next t ∧
      (addr.toNat = 0x08 → t.inLen.toNat = data.toNat % 65536) ∧
      (addr.toNat ≠ 0x08 → t.inLen = s.inLen) ∧
      t = { s with host := rest, inLen := t.inLen }

/-- Byte writes of the address space while IDLE (spec/20_memory.md R69): an IBUF window byte below IBUF_CAP is written and
every other IBUF byte keeps its value; beyond it, in the OBUF window and in unmapped addresses the write is ignored. -/
def Obligations.ByteWritesReachOnlyIbuf : Prop :=
  ∀ (s : State) (addr : BitVec 18) (data : U32) (rest : List HostEvent), s.phase = .idle →
    s.host = .bus (.write addr .w8 data) :: rest → 0x100 ≤ addr.toNat →
    ∃ t, step s = .next t ∧ t = { s with host := rest, ibuf := t.ibuf } ∧
      ∀ a, t.ibuf.read a =
        if 0x10000 ≤ addr.toNat ∧ addr.toNat = 0x10000 + a ∧ a < 65536 ∧ a < s.params.ibufCap
        then some (data.extractLsb' 0 8) else s.ibuf.read a

/-- Byte reads of the address space while IDLE (spec/20_memory.md R69, R71): the byte of IBUF or OBUF, 0 beyond the
capacity and in unmapped addresses; a byte that holds ⊥ is the model fault UNINIT_READ. That an OBUF read shows a command's
output from its completion on, before the host has read STATUS with BUSY = 0, is the model's (DEDUCED, log 14):
spec/20_memory.md R75 promises no earlier read any of them. -/
def Obligations.ByteReadsReturnBufferBytes : Prop :=
  ∀ (s : State) (addr : BitVec 18) (rest : List HostEvent) (b : Option Byte), s.phase = .idle →
    s.host = .bus (.read addr .w8) :: rest → 0x100 ≤ addr.toNat →
    b = (if 0x10000 ≤ addr.toNat ∧ addr.toNat < 0x20000 ∧ addr.toNat - 0x10000 < s.params.ibufCap then
        s.ibuf.read (addr.toNat - 0x10000)
      else if 0x20000 ≤ addr.toNat ∧ addr.toNat < 0x30000 ∧ addr.toNat - 0x20000 < s.params.obufCap then
        s.obuf.read (addr.toNat - 0x20000)
      else some 0#8) →
    (∀ v, b = some v → step s = .next { s with host := rest, seen := s.seen ++ [.byte v] }) ∧
    (b = none → step s = .fault .uninitRead)

/-- While BUSY (spec/20_memory.md R74): a host write of IBUF or `msg_write` is HOST_RACE; a host read of OBUF, OUT_LEN,
ERR_POS or a `msg_read` is UNINIT_READ; a read of STATUS sees BUSY; a write of IN_LEN does not change LEN. That a
`msg_write` of a message over a capacity is HOST_RACE too, and not refused (spec/10_state.md R30), is the model's (DEDUCED,
log 15). -/
def Obligations.HostAccessesWhileBusy : Prop :=
  ∀ (s : State) (rest : List HostEvent), s.phase = .busy →
    (∀ addr data, s.host = .bus (.write addr .w8 data) :: rest → 0x10000 ≤ addr.toNat → addr.toNat < 0x20000 →
      addr.toNat < 0x10000 + s.params.ibufCap → step s = .fault .hostRace) ∧
    (∀ m, s.host = .msgWrite m :: rest → step s = .fault .hostRace) ∧
    (∀ addr, s.host = .bus (.read addr .w8) :: rest → 0x20000 ≤ addr.toNat → addr.toNat < 0x30000 →
      addr.toNat < 0x20000 + s.params.obufCap → step s = .fault .uninitRead) ∧
    (s.host = .bus (.read 0x0C#18 .w32) :: rest → step s = .fault .uninitRead) ∧
    (s.host = .bus (.read 0x10#18 .w32) :: rest → step s = .fault .uninitRead) ∧
    (s.host = .msgRead :: rest → step s = .fault .uninitRead) ∧
    (s.Inv → s.host = .bus (.read 0x04#18 .w32) :: rest →
      ∃ v, busyBit v = true ∧ step s = .next { s with host := rest, seen := s.seen ++ [.word v] }) ∧
    (∀ data, s.host = .bus (.write 0x08#18 .w32 data) :: rest → ∃ t, step s = .next t ∧ t.len = s.len)

/-- The message port while IDLE (spec/20_memory.md R72, spec/10_state.md R30): `msg_read` returns MSG, or is UNINIT_READ
where it holds no value; `msg_write` replaces it whole, and is refused beyond a capacity. That `msg_read` shows DECODE's
message from its completion on, before the host has read STATUS with BUSY = 0, is the model's (DEDUCED, log 14):
spec/20_memory.md R75 promises no earlier read any of them. -/
def Obligations.MessagePortReadsAndWritesWhole : Prop :=
  ∀ (s : State) (rest : List HostEvent), s.phase = .idle →
    (s.host = .msgRead :: rest →
      (∀ m, s.msg = some m → step s = .next { s with host := rest, seen := s.seen ++ [.message m] }) ∧
      (s.msg = none → step s = .fault .uninitRead)) ∧
    (∀ m, s.host = .msgWrite m :: rest →
      (messageFits s.params m = true → step s = .next { s with host := rest, msg := some m }) ∧
      (messageFits s.params m = false → step s = .refused .overCapacity))

/-- A register access that is not an aligned 32-bit one, and a window access that is not 8-bit, is refused
(spec/20_memory.md R70). That it is refused in either phase, also where spec/20_memory.md R74 would have a model
fault, is the model's choice (DESIGN CHOICE, log 21). -/
def Obligations.UndefinedAccessesAreRefused : Prop :=
  ∀ (s : State) (addr : BitVec 18) (w : Width) (rest : List HostEvent),
    (addr.toNat < 0x100 ∧ (w ≠ .w32 ∨ addr.toNat % 4 ≠ 0)) ∨
      (0x10000 ≤ addr.toNat ∧ addr.toNat < 0x30000 ∧ w ≠ .w8) →
    (s.host = .bus (.read addr w) :: rest → step s = .refused .badAccess) ∧
    (∀ data, s.host = .bus (.write addr w data) :: rest → step s = .refused .badAccess)
end

