-- ==== Sys2Proof/Laws/Bits.lean ====
section
/-! SUPPORT. Field assembly in numbers: concatenation, the big-endian fields and their inverses. -/

namespace Sys2Proof

/-- Concatenation in numbers: the left part is the more significant one. -/
theorem append_toNat {m n : Nat} (x : BitVec m) (y : BitVec n) : (x ++ y).toNat = x.toNat * 2 ^ n + y.toNat := by
  rw [BitVec.toNat_append, ← Nat.shiftLeft_add_eq_or_of_lt y.isLt, Nat.shiftLeft_eq]

/-- `u16(b0, b1) = b0*256 + b1` (spec/00_scope.md R15). -/
theorem u16_toNat (b0 b1 : Byte) : (u16 b0 b1).toNat = b0.toNat * 256 + b1.toNat := append_toNat b0 b1

/-- `u32(b0, b1, b2, b3)` in numbers (spec/00_scope.md R15). -/
theorem u32_toNat (b0 b1 b2 b3 : Byte) :
    (u32 b0 b1 b2 b3).toNat = ((b0.toNat * 256 + b1.toNat) * 256 + b2.toNat) * 256 + b3.toNat := by
  have h := append_toNat (u16 b0 b1) (u16 b2 b3)
  rw [u16_toNat, u16_toNat] at h
  rw [show (u32 b0 b1 b2 b3).toNat = (u16 b0 b1 ++ u16 b2 b3).toNat from rfl, h]
  omega

/-- A slice of bits in numbers. -/
theorem extract_toNat {w : Nat} (x : BitVec w) (lo n : Nat) :
    (x.extractLsb' lo n).toNat = x.toNat / 2 ^ lo % 2 ^ n := by
  rw [BitVec.extractLsb'_toNat, Nat.shiftRight_eq_div_pow]

/-- Reading back a 16-bit field gives the value written. -/
theorem u16_be16 (v : U16) : u16 (v.extractLsb' 8 8) (v.extractLsb' 0 8) = v := by
  apply BitVec.eq_of_toNat_eq
  rw [u16_toNat, extract_toNat, extract_toNat]
  have := v.isLt
  omega

/-- Reading back a 32-bit field gives the value written. -/
theorem u32_be32 (v : U32) :
    u32 (v.extractLsb' 24 8) (v.extractLsb' 16 8) (v.extractLsb' 8 8) (v.extractLsb' 0 8) = v := by
  apply BitVec.eq_of_toNat_eq
  rw [u32_toNat, extract_toNat, extract_toNat, extract_toNat, extract_toNat]
  have := v.isLt
  omega

@[simp] theorem be16_length (v : U16) : (be16 v).length = 2 := rfl
@[simp] theorem be32_length (v : U32) : (be32 v).length = 4 := rfl

/-- The low byte of a concatenation with a byte on the right. -/
theorem append_low_byte (x : BitVec 24) (o : Byte) : ((x ++ o : U32) &&& 0xFF#32) = o.setWidth 32 := by
  apply BitVec.eq_of_toNat_eq
  have h : ((x ++ o : U32)).toNat = x.toNat * 2 ^ 8 + o.toNat := append_toNat x o
  rw [BitVec.toNat_and, h, BitVec.toNat_setWidth, show (0xFF#32 : U32).toNat = 2 ^ 8 - 1 from rfl,
    Nat.and_two_pow_sub_one_eq_mod]
  have := o.isLt
  omega

/-- The top two bits of a pointer's 16-bit value. -/
theorem pointer_top_bits (off : BitVec 14) : ((0b11#2 ++ off : U16).setWidth 32 &&& 0xC000#32) = 0xC000#32 := by
  have h : ∀ k, (0b11#2 ++ off : U16).getLsbD k = if k < 14 then off.getLsbD k else (0b11#2).getLsbD (k - 14) :=
    fun k => BitVec.getLsbD_append
  apply BitVec.eq_of_getLsbD_eq
  intro k hk
  rw [BitVec.getLsbD_and, BitVec.getLsbD_setWidth, h]
  interval_cases k <;> simp

end Sys2Proof
end

