-- ==== Sys2Proof/Laws/Memory.lean ====
section
/-! SUPPORT. What the memory operations do: reading after a write, and that every one of them keeps the canonical
form. -/

namespace Sys2Proof.Machine

@[simp] theorem Memory.read_nil (a : Nat) : Memory.read [] a = none := rfl

theorem Memory.read_cons (b : Nat) (v : Byte) (m : Memory) (a : Nat) :
    Memory.read ((b, v) :: m) a = if b = a then some v else Memory.read m a := rfl

@[simp] theorem Memory.writeBytes_nil (m : Memory) (a : Nat) : Memory.writeBytes m a [] = m := rfl

theorem Memory.writeBytes_cons (m : Memory) (a : Nat) (v : Byte) (vs : Bytes) :
    Memory.writeBytes m a (v :: vs) = Memory.writeBytes (Memory.write m a v) (a + 1) vs := rfl

/-- Reading after a write of one byte. -/
theorem Memory.read_write (m : Memory) (a c : Nat) (v : Byte) :
    (Memory.write m a v).read c = if a = c then some v else Memory.read m c := by
  induction m with
  | nil => simp [Memory.write, Memory.read]
  | cons d m ih =>
    obtain ⟨b, w⟩ := d
    unfold Memory.write
    by_cases h1 : a < b
    · rw [if_pos h1, Memory.read_cons]
    rw [if_neg h1]
    by_cases h2 : a = b
    · rw [if_pos h2, Memory.read_cons, Memory.read_cons, h2]
      split_ifs <;> rfl
    · rw [if_neg h2, Memory.read_cons, Memory.read_cons, ih]
      by_cases hb : b = c
      · rw [if_pos hb, if_neg (fun hac => h2 (hac.trans hb.symm)), if_pos hb]
      · rw [if_neg hb, if_neg hb]

/-- The offsets in a buffer after a write are the written one and those there before. -/
theorem Memory.mem_write {m : Memory} {a : Nat} {v : Byte} {c : Host.Cell} (h : c ∈ Memory.write m a v) :
    c = (a, v) ∨ c ∈ m := by
  induction m with
  | nil => simpa [Memory.write] using h
  | cons d m ih =>
    obtain ⟨b, w⟩ := d
    unfold Memory.write at h
    split_ifs at h with h1 h2
    · simpa using h
    · rcases List.mem_cons.mp h with h | h
      · exact .inl h
      · exact .inr (List.mem_cons_of_mem _ h)
    · rcases List.mem_cons.mp h with h | h
      · exact .inr (h ▸ List.mem_cons_self)
      · exact (ih h).imp_right (List.mem_cons_of_mem _)

/-- Writing a byte keeps the canonical form. -/
theorem Memory.wf_write {m : Memory} (h : m.wf) (a : Nat) (v : Byte) : (Memory.write m a v).wf := by
  induction m with
  | nil => simp [Memory.write, Memory.wf]
  | cons d m ih =>
    obtain ⟨b, w⟩ := d
    obtain ⟨hb, hm⟩ := List.pairwise_cons.mp h
    unfold Memory.write
    split_ifs with h1 h2
    · refine List.pairwise_cons.mpr ⟨fun c hc => ?_, h⟩
      rcases List.mem_cons.mp hc with rfl | hc
      · exact h1
      · exact h1.trans (hb c hc)
    · exact List.pairwise_cons.mpr ⟨fun c hc => h2 ▸ hb c hc, hm⟩
    · refine List.pairwise_cons.mpr ⟨fun c hc => ?_, ih hm⟩
      rcases Memory.mem_write hc with rfl | hc
      · exact Nat.lt_of_le_of_ne (Nat.not_lt.mp h1) (Ne.symm h2)
      · exact hb c hc

/-- Writing a byte string keeps the canonical form. -/
theorem Memory.wf_writeBytes {m : Memory} (h : m.wf) (a : Nat) (vs : Bytes) : (m.writeBytes a vs).wf := by
  induction vs generalizing m a with
  | nil => exact h
  | cons v vs ih => exact ih (Memory.wf_write h a v) (a + 1)

/-- Reading after a byte string was written: the string where it lies, the old bytes elsewhere. -/
theorem Memory.read_writeBytes (m : Memory) (a : Nat) (vs : Bytes) (c : Nat) :
    (m.writeBytes a vs).read c = if a ≤ c ∧ c < a + vs.length then vs[c - a]? else m.read c := by
  induction vs generalizing m a with
  | nil =>
    rw [if_neg (by rintro ⟨h1, h2⟩; simp at h2; omega)]
    rfl
  | cons v vs ih =>
    rw [Memory.writeBytes_cons, ih]
    by_cases h1 : a + 1 ≤ c ∧ c < a + 1 + vs.length
    · rw [if_pos h1, if_pos (by simp; omega), show c - a = (c - (a + 1)) + 1 by omega,
        List.getElem?_cons_succ]
    · rw [if_neg h1, Memory.read_write]
      by_cases h2 : a = c
      · subst h2
        simp
      · rw [if_neg h2, if_neg (by simp; omega)]

/-- The offsets after writing a byte string: those written and those there before. -/
theorem Memory.mem_writeBytes {m : Memory} {a : Nat} {vs : Bytes} {c : Host.Cell}
    (h : c ∈ m.writeBytes a vs) : (a ≤ c.1 ∧ c.1 < a + vs.length) ∨ c ∈ m := by
  induction vs generalizing m a with
  | nil => exact .inr h
  | cons v vs ih =>
    rcases ih h with h | h
    · exact .inl (by simp; omega)
    · rcases Memory.mem_write h with rfl | h
      · exact .inl (by simp)
      · exact .inr h

end Sys2Proof.Machine
end

