-- ==== Sys2Proof/Laws/Ops.lean ====
section
/-! SUPPORT. For each shared operation, one lemma that says all it can do; later proofs cite it instead of unfolding
the operation. -/

namespace Sys2Proof.Machine

@[simp] theorem Res.andThen_ok {α β : Type} (a : α) (k : α → Res β) : (Res.ok a).andThen k = k a := rfl
@[simp] theorem Res.andThen_err {α β : Type} (e : Err) (k : α → Res β) :
    (Res.err e : Res α).andThen k = .err e := rfl
@[simp] theorem Res.andThen_fault {α β : Type} (f : Fault) (k : α → Res β) :
    (Res.fault f : Res α).andThen k = .fault f := rfl

/-- A sequence of procedures gives a value only if both do. -/
theorem Res.andThen_eq_ok {α β : Type} {r : Res α} {k : α → Res β} {b : β} (h : r.andThen k = .ok b) :
    ∃ a, r = .ok a ∧ k a = .ok b := by
  cases r with
  | ok a => exact ⟨a, rfl, h⟩
  | err e => cases h
  | fault f => cases h

/-- A sequence of procedures raises the first one's error, or the second one's. -/
theorem Res.andThen_eq_err {α β : Type} {r : Res α} {k : α → Res β} {e : Err} (h : r.andThen k = .err e) :
    r = .err e ∨ ∃ a, r = .ok a ∧ k a = .err e := by
  cases r with
  | ok a => exact .inr ⟨a, rfl, h⟩
  | err e' => exact .inl (by cases h; rfl)
  | fault f => cases h

/-- All a DECODE step can answer. -/
theorem State.decodeStep_cases {α : Type} (s : State) (r : Res α) (k : α → State) :
    (∃ a, r = .ok a ∧ s.decodeStep r k = .next (k a)) ∨
    (∃ e, r = .err e ∧ s.decodeStep r k = .next (s.raise .decode e)) ∨
    (∃ f, r = .fault f ∧ s.decodeStep r k = .fault f) := by
  cases r with
  | ok a => exact .inl ⟨a, rfl, rfl⟩
  | err e => exact .inr (.inl ⟨e, rfl, rfl⟩)
  | fault f => exact .inr (.inr ⟨f, rfl, rfl⟩)

/-- What a DECODE step that answers a next state did. -/
theorem State.decodeStep_next {α : Type} {s t : State} {r : Res α} {k : α → State}
    (h : s.decodeStep r k = .next t) :
    (∃ a, r = .ok a ∧ t = k a) ∨ (∃ e, r = .err e ∧ t = s.raise .decode e) := by
  rcases s.decodeStep_cases r k with ⟨a, hr, hk⟩ | ⟨e, hr, hk⟩ | ⟨f, hr, hk⟩
  · exact .inl ⟨a, hr, by simpa [hk] using h.symm⟩
  · exact .inr ⟨e, hr, by simpa [hk] using h.symm⟩
  · simp [hk] at h

/-- `within` is the comparison with a bounded capacity, and true of an unbounded one. -/
theorem within_iff (n : Nat) (cap : Option Nat) : within n cap = true ↔ ∀ c, cap = some c → n ≤ c := by
  cases cap with
  | none => simp [within]
  | some c => simp [within]

/-- `inb` as an inequality. -/
theorem inb_iff (e : Input) (a n : Nat) : inb e a n = true ↔ a + n ≤ e.len := by simp [inb]

/-- A byte that is read was written. -/
theorem ib_eq_ok {e : Input} {a : Nat} {b : Byte} (h : ib e a = .ok b) : e.ibuf.read a = some b := by
  unfold ib at h
  split at h
  · next v hv => simpa [hv] using h
  · cases h

/-- RD8 gives a byte only inside LEN. -/
theorem rd8_eq_ok {e : Input} {a : Nat} {why : MalReason} {b : Byte} (h : rd8 e a why = .ok b) :
    a < e.len ∧ e.ibuf.read a = some b := by
  unfold rd8 at h
  split_ifs at h with hb
  exact ⟨by have := (inb_iff e a 1).mp hb; omega, ib_eq_ok h⟩

/-- RD16 gives a value only inside LEN, the two bytes most significant first. -/
theorem rd16_eq_ok {e : Input} {a : Nat} {why : MalReason} {v : U16} (h : rd16 e a why = .ok v) :
    a + 2 ≤ e.len ∧ ∃ b0 b1, e.ibuf.read a = some b0 ∧ e.ibuf.read (a + 1) = some b1 ∧ v = u16 b0 b1 := by
  unfold rd16 at h
  split_ifs at h with hb
  obtain ⟨b0, h0, h⟩ := Res.andThen_eq_ok h
  obtain ⟨b1, h1, h⟩ := Res.andThen_eq_ok h
  cases h
  exact ⟨(inb_iff e a 2).mp hb, b0, b1, ib_eq_ok h0, ib_eq_ok h1, rfl⟩

/-- RD32 gives a value only inside LEN. -/
theorem rd32_eq_ok {e : Input} {a : Nat} {why : MalReason} {v : U32} (h : rd32 e a why = .ok v) :
    a + 4 ≤ e.len := by
  unfold rd32 at h
  split_ifs at h with hb
  exact (inb_iff e a 4).mp hb

/-- A range that is read has the length asked for and is what IBUF holds. -/
theorem ibRange_eq_ok {e : Input} {n : Nat} {a : Nat} {bs : Bytes} (h : ibRange e a n = .ok bs) :
    bs.length = n ∧ ∀ k, k < n → e.ibuf.read (a + k) = bs[k]? := by
  induction n generalizing a bs with
  | zero =>
    cases h
    exact ⟨rfl, fun k hk => absurd hk (Nat.not_lt_zero k)⟩
  | succ n ih =>
    obtain ⟨b, hb, h⟩ := Res.andThen_eq_ok h
    obtain ⟨cs, hc, h⟩ := Res.andThen_eq_ok h
    cases h
    obtain ⟨hl, hr⟩ := ih hc
    refine ⟨by simp [hl], fun k hk => ?_⟩
    cases k with
    | zero => simpa using ib_eq_ok hb
    | succ k => simpa [Nat.add_assoc, Nat.add_comm 1 k] using hr k (by omega)

/-- A range reads as the bytes IBUF holds there. -/
theorem ibRange_of_read {e : Input} {bs : Bytes} {a : Nat}
    (h : ∀ k, k < bs.length → e.ibuf.read (a + k) = bs[k]?) : ibRange e a bs.length = .ok bs := by
  induction bs generalizing a with
  | nil => rfl
  | cons b bs ih =>
    have h0 : ib e a = .ok b := by
      have := h 0 (by simp)
      simp at this
      simp [ib, this]
    have h1 : ibRange e (a + 1) bs.length = .ok bs := by
      refine ih fun k hk => ?_
      have := h (k + 1) (by simp; omega)
      rw [show a + 1 + k = a + (k + 1) by omega, this]
      simp
    simp [ibRange, h0, h1]

/-- A range never raises an error. -/
theorem ibRange_ne_err (e : Input) (a n : Nat) (x : Err) : ibRange e a n ≠ .err x := by
  induction n generalizing a with
  | zero => simp [ibRange]
  | succ n ih =>
    intro h
    rcases Res.andThen_eq_err h with h | ⟨b, -, h⟩
    · unfold ib at h
      split at h <;> cases h
    · rcases Res.andThen_eq_err h with h | ⟨c, -, h⟩
      · exact ih _ h
      · cases h

/-- RDSLICE gives bytes only inside LEN: all of them, as IBUF holds them. -/
theorem rdSlice_eq_ok {e : Input} {a n : Nat} {why : MalReason} {bs : Bytes} (h : rdSlice e a n why = .ok bs) :
    a + n ≤ e.len ∧ bs.length = n ∧ ∀ k, k < n → e.ibuf.read (a + k) = bs[k]? := by
  unfold rdSlice at h
  split_ifs at h with hb
  exact ⟨(inb_iff e a n).mp hb, ibRange_eq_ok h⟩

/-- RDSLICE raises exactly one error, at the slice's first byte, when the slice passes LEN. -/
theorem rdSlice_eq_err {e : Input} {a n : Nat} {why : MalReason} {x : Err} (h : rdSlice e a n why = .err x) :
    e.len < a + n ∧ x = .malformed why a := by
  unfold rdSlice at h
  split_ifs at h with hb
  · exact absurd h (ibRange_ne_err e a n x)
  · cases h
    exact ⟨by have := mt (inb_iff e a n).mpr hb; omega, rfl⟩

/-- What a label step that continues the name did. -/
theorem labelStep_eq_ok {e : Input} {n n' : NameRegs} {size : Nat} (h : labelStep e n size = .ok n') :
    ∃ lab, n.p + 1 + size ≤ e.len ∧ lab.length = size ∧
      (∀ k, k < size → e.ibuf.read (n.p + 1 + k) = lab[k]?) ∧
      within (enclen (n.acc ++ [lab])) e.params.nameCap = true ∧
      n' = { n with acc := n.acc ++ [lab], p := n.p + 1 + size } := by
  obtain ⟨lab, hl, h⟩ := Res.andThen_eq_ok h
  split_ifs at h with hc
  cases h
  obtain ⟨h1, h2, h3⟩ := rdSlice_eq_ok hl
  exact ⟨lab, h1, h2, h3, hc, rfl⟩

/-- What an extended-tag step that continues the name did: a label step under AS_LENGTH. -/
theorem extStep_eq_ok {e : Input} {n n' : NameRegs} {tag : Nat} (h : extStep e n tag = .ok n') :
    e.params.extTagPolicy = .asLength ∧ labelStep e n tag = .ok n' := by
  unfold extStep at h
  split at h
  · cases h
  · next hp => exact ⟨hp, h⟩

/-- What a pointer step that continues the name did. -/
theorem pointerStep_eq_ok {e : Input} {n n' : NameRegs} {off : Nat} (h : pointerStep e n off = .ok n') :
    off < e.len ∧ n.hops < e.params.ptrLimit ∧
      n' = { n with fin := some (n.fieldEnd 2), hops := n.hops + 1, p := off } := by
  unfold pointerStep at h
  split_ifs at h with h1 h2
  cases h
  exact ⟨Nat.not_le.mp h1, h2, rfl⟩

/-- What fetching an element that decodes did: the tag is inside LEN, a pointer's second byte too. -/
theorem fetchElement_eq_ok {e : Input} {p : Nat} {i : Instr} (h : fetchElement e p = .ok i) :
    ∃ t, p < e.len ∧ e.ibuf.read p = some t ∧
      (decodeTagByte t = some i ∨
       ∃ b1, decodeTagByte t = none ∧ p + 1 < e.len ∧ e.ibuf.read (p + 1) = some b1 ∧ i = decodePointer t b1) := by
  obtain ⟨t, ht, h⟩ := Res.andThen_eq_ok h
  obtain ⟨hp, hr⟩ := rd8_eq_ok ht
  refine ⟨t, hp, hr, ?_⟩
  split at h
  · next j hj => cases h; exact .inl hj
  · next hn =>
    obtain ⟨b1, hb, h⟩ := Res.andThen_eq_ok h
    obtain ⟨hp1, hr1⟩ := rd8_eq_ok hb
    cases h
    exact .inr ⟨b1, hn, hp1, hr1, rfl⟩

/-- A record body that is read has RDLENGTH bytes inside LEN. -/
theorem readBody_eq_ok {e : Input} {p rdlen : Nat} {b : Bytes} (h : readBody e p rdlen = .ok b) :
    p + rdlen ≤ e.len ∧ b.length = rdlen ∧ (∀ k, k < rdlen → e.ibuf.read (p + k) = b[k]?) ∧
      within rdlen e.params.rdataCap = true := by
  obtain ⟨c, hc, h⟩ := Res.andThen_eq_ok h
  split_ifs at h with hw
  cases h
  obtain ⟨h1, h2, h3⟩ := rdSlice_eq_ok hc
  exact ⟨h1, h2, h3, hw⟩

/-- All that emitting output can do: the bytes are appended and fit, or an error is entered. -/
theorem State.emit_next {s t : State} {r : Except Err Bytes} {k : State → State} (h : s.emit r k = .next t) :
    (∃ b, r = .ok b ∧ s.opos + b.length ≤ s.params.obufCap ∧
      t = k { s with out := s.out ++ b, opos := s.opos + b.length }) ∨
    (∃ e, t = s.raise .encode e) := by
  unfold State.emit at h
  split at h
  · next e => exact .inr ⟨_, by simpa using h.symm⟩
  · next b =>
    split_ifs at h with hb
    · exact .inl ⟨b, rfl, hb, by simpa using h.symm⟩
    · exact .inr ⟨_, by simpa using h.symm⟩

/-- A CMD write while BUSY changes nothing; while IDLE it is the command's event. -/
theorem State.whenIdle_next {s t u : State} (h : s.whenIdle u = .next t) :
    (s.phase = .busy ∧ t = s) ∨ (s.phase = .idle ∧ t = u) := by
  unfold State.whenIdle at h
  split at h
  · next hp => exact .inl ⟨hp, by simpa using h.symm⟩
  · next hp => exact .inr ⟨hp, by simpa using h.symm⟩

end Sys2Proof.Machine
end

