-- ==== Sys2Proof/Laws/PerInstr.lean ====
section
/-! SUPPORT. A statement for all instructions, one lemma per constructor: the encoded word of an instruction matches
its row of spec/opcode_table.json. -/

namespace Sys2Proof

/-- A coded object as the number the table numbers the bits of: a tag byte, the big-endian 16-bit value of a pointer, a
TYPE, a CMD word. -/
def codeWord : Code → U32
  | .tag [t] => t.setWidth 32
  | .tag (t :: b1 :: _) => (u16 t b1).setWidth 32
  | .tag [] => 0#32
  | .rtype t => t.setWidth 32
  | .cmd v => v

/-- The row's `mask`. -/
def rowMask : Instr → U32
  | .nameTerm => 0xFF#32
  | .nameLabel _ => 0xC0#32
  | .nameExt01 _ => 0xC0#32
  | .nameExt10 _ => 0xC0#32
  | .namePtr _ => 0xC000#32
  | .rdA => 0xFFFF#32
  | .rdCname => 0xFFFF#32
  | .rdOpaque _ => 0x0000#32
  | .cmdNop _ => 0x000000FF#32
  | .cmdDecode _ => 0x000000FF#32
  | .cmdEncode _ => 0x000000FF#32
  | .cmdIllegal _ _ => 0x00000000#32

/-- The row's `match`. -/
def rowMatch : Instr → U32
  | .nameTerm => 0x00#32
  | .nameLabel _ => 0x00#32
  | .nameExt01 _ => 0x40#32
  | .nameExt10 _ => 0x80#32
  | .namePtr _ => 0xC000#32
  | .rdA => 0x0001#32
  | .rdCname => 0x0005#32
  | .rdOpaque _ => 0x0000#32
  | .cmdNop _ => 0x00000000#32
  | .cmdDecode _ => 0x00000001#32
  | .cmdEncode _ => 0x00000002#32
  | .cmdIllegal _ _ => 0x00000000#32

/-- The encoded word of `i` matches `i`'s row. -/
def Laws.TableRow.Statement (i : Instr) : Prop := codeWord (encode i) &&& rowMask i = rowMatch i

theorem Laws.TableRow.nameTerm : Laws.TableRow.Statement .nameTerm := rfl

theorem Laws.TableRow.nameLabel (len : BitVec 6) : Laws.TableRow.Statement (.nameLabel len) := by
  unfold Laws.TableRow.Statement
  revert len
  decide

theorem Laws.TableRow.nameExt01 (low : BitVec 6) : Laws.TableRow.Statement (.nameExt01 low) := by
  unfold Laws.TableRow.Statement
  revert low
  decide

theorem Laws.TableRow.nameExt10 (low : BitVec 6) : Laws.TableRow.Statement (.nameExt10 low) := by
  unfold Laws.TableRow.Statement
  revert low
  decide

theorem Laws.TableRow.namePtr (off : BitVec 14) : Laws.TableRow.Statement (.namePtr off) := by
  show ((u16 ((0b11#2 ++ off : U16).extractLsb' 8 8) ((0b11#2 ++ off : U16).extractLsb' 0 8)).setWidth 32 &&&
    0xC000#32) = 0xC000#32
  rw [u16_be16, pointer_top_bits]

theorem Laws.TableRow.rdA : Laws.TableRow.Statement .rdA := rfl

theorem Laws.TableRow.rdCname : Laws.TableRow.Statement .rdCname := rfl

theorem Laws.TableRow.rdOpaque (rtype : U16) : Laws.TableRow.Statement (.rdOpaque rtype) :=
  BitVec.and_zero

theorem Laws.TableRow.cmdNop (x : BitVec 24) : Laws.TableRow.Statement (.cmdNop x) := append_low_byte x 0x00#8

theorem Laws.TableRow.cmdDecode (x : BitVec 24) : Laws.TableRow.Statement (.cmdDecode x) := append_low_byte x 0x01#8

theorem Laws.TableRow.cmdEncode (x : BitVec 24) : Laws.TableRow.Statement (.cmdEncode x) := append_low_byte x 0x02#8

theorem Laws.TableRow.cmdIllegal (x : BitVec 24) (opcode : Byte) :
    Laws.TableRow.Statement (.cmdIllegal x opcode) := BitVec.and_zero

end Sys2Proof
end

