-- ==== Sys2Proof/Laws/State.lean ====
section
/-! SUPPORT. For each named update of State, what it leaves every field at. No later proof unfolds an update to read
a field. -/

namespace Sys2Proof.Machine

@[simp] theorem State.acceptCommand_params (s : State) : s.acceptCommand.params = s.params := rfl
@[simp] theorem State.acceptCommand_ibuf (s : State) : s.acceptCommand.ibuf = s.ibuf := rfl
@[simp] theorem State.acceptCommand_obuf (s : State) : s.acceptCommand.obuf = s.obuf := rfl
@[simp] theorem State.acceptCommand_msg (s : State) : s.acceptCommand.msg = s.msg := rfl
@[simp] theorem State.acceptCommand_status (s : State) : s.acceptCommand.status = statusRunning := rfl
@[simp] theorem State.acceptCommand_inLen (s : State) : s.acceptCommand.inLen = s.inLen := rfl
@[simp] theorem State.acceptCommand_outLen (s : State) : s.acceptCommand.outLen = s.outLen := rfl
@[simp] theorem State.acceptCommand_errPos (s : State) : s.acceptCommand.errPos = s.errPos := rfl
@[simp] theorem State.acceptCommand_phase (s : State) : s.acceptCommand.phase = .busy := rfl
@[simp] theorem State.acceptCommand_cur (s : State) : s.acceptCommand.cur = s.cur := rfl
@[simp] theorem State.acceptCommand_name (s : State) : s.acceptCommand.name = s.name := rfl
@[simp] theorem State.acceptCommand_len (s : State) : s.acceptCommand.len = s.len := rfl
@[simp] theorem State.acceptCommand_qd (s : State) : s.acceptCommand.qd = s.qd := rfl
@[simp] theorem State.acceptCommand_an (s : State) : s.acceptCommand.an = s.an := rfl
@[simp] theorem State.acceptCommand_ns (s : State) : s.acceptCommand.ns = s.ns := rfl
@[simp] theorem State.acceptCommand_ar (s : State) : s.acceptCommand.ar = s.ar := rfl
@[simp] theorem State.acceptCommand_sect (s : State) : s.acceptCommand.sect = s.sect := rfl
@[simp] theorem State.acceptCommand_idx (s : State) : s.acceptCommand.idx = s.idx := rfl
@[simp] theorem State.acceptCommand_opos (s : State) : s.acceptCommand.opos = s.opos := rfl
@[simp] theorem State.acceptCommand_ctl (s : State) : s.acceptCommand.ctl = s.ctl := rfl
@[simp] theorem State.acceptCommand_use (s : State) : s.acceptCommand.use = s.use := rfl
@[simp] theorem State.acceptCommand_recd (s : State) : s.acceptCommand.recd = s.recd := rfl
@[simp] theorem State.acceptCommand_draft (s : State) : s.acceptCommand.draft = s.draft := rfl
@[simp] theorem State.acceptCommand_out (s : State) : s.acceptCommand.out = s.out := rfl
@[simp] theorem State.acceptCommand_host (s : State) : s.acceptCommand.host = s.host := rfl
@[simp] theorem State.acceptCommand_seen (s : State) : s.acceptCommand.seen = s.seen := rfl

@[simp] theorem State.acceptDecode_params (s : State) : s.acceptDecode.params = s.params := rfl
@[simp] theorem State.acceptDecode_ibuf (s : State) : s.acceptDecode.ibuf = s.ibuf := rfl
@[simp] theorem State.acceptDecode_obuf (s : State) : s.acceptDecode.obuf = s.obuf := rfl
@[simp] theorem State.acceptDecode_msg (s : State) : s.acceptDecode.msg = s.msg := rfl
@[simp] theorem State.acceptDecode_status (s : State) : s.acceptDecode.status = statusRunning := rfl
@[simp] theorem State.acceptDecode_inLen (s : State) : s.acceptDecode.inLen = s.inLen := rfl
@[simp] theorem State.acceptDecode_outLen (s : State) : s.acceptDecode.outLen = s.outLen := rfl
@[simp] theorem State.acceptDecode_errPos (s : State) : s.acceptDecode.errPos = s.errPos := rfl
@[simp] theorem State.acceptDecode_phase (s : State) : s.acceptDecode.phase = .busy := rfl
@[simp] theorem State.acceptDecode_cur (s : State) : s.acceptDecode.cur = 0 := rfl
@[simp] theorem State.acceptDecode_name (s : State) : s.acceptDecode.name = s.name := rfl
@[simp] theorem State.acceptDecode_len (s : State) : s.acceptDecode.len = s.inLen.toNat := rfl
@[simp] theorem State.acceptDecode_qd (s : State) : s.acceptDecode.qd = s.qd := rfl
@[simp] theorem State.acceptDecode_an (s : State) : s.acceptDecode.an = s.an := rfl
@[simp] theorem State.acceptDecode_ns (s : State) : s.acceptDecode.ns = s.ns := rfl
@[simp] theorem State.acceptDecode_ar (s : State) : s.acceptDecode.ar = s.ar := rfl
@[simp] theorem State.acceptDecode_sect (s : State) : s.acceptDecode.sect = .header := rfl
@[simp] theorem State.acceptDecode_idx (s : State) : s.acceptDecode.idx = 0 := rfl
@[simp] theorem State.acceptDecode_opos (s : State) : s.acceptDecode.opos = s.opos := rfl
@[simp] theorem State.acceptDecode_ctl (s : State) : s.acceptDecode.ctl = .decodeStart := rfl
@[simp] theorem State.acceptDecode_use (s : State) : s.acceptDecode.use = s.use := rfl
@[simp] theorem State.acceptDecode_recd (s : State) : s.acceptDecode.recd = s.recd := rfl
@[simp] theorem State.acceptDecode_draft (s : State) : s.acceptDecode.draft = Message.blank := rfl
@[simp] theorem State.acceptDecode_out (s : State) : s.acceptDecode.out = s.out := rfl
@[simp] theorem State.acceptDecode_host (s : State) : s.acceptDecode.host = s.host := rfl
@[simp] theorem State.acceptDecode_seen (s : State) : s.acceptDecode.seen = s.seen := rfl

@[simp] theorem State.acceptEncode_params (s : State) : s.acceptEncode.params = s.params := rfl
@[simp] theorem State.acceptEncode_ibuf (s : State) : s.acceptEncode.ibuf = s.ibuf := rfl
@[simp] theorem State.acceptEncode_obuf (s : State) : s.acceptEncode.obuf = s.obuf := rfl
@[simp] theorem State.acceptEncode_msg (s : State) : s.acceptEncode.msg = s.msg := rfl
@[simp] theorem State.acceptEncode_status (s : State) : s.acceptEncode.status = statusRunning := rfl
@[simp] theorem State.acceptEncode_inLen (s : State) : s.acceptEncode.inLen = s.inLen := rfl
@[simp] theorem State.acceptEncode_outLen (s : State) : s.acceptEncode.outLen = s.outLen := rfl
@[simp] theorem State.acceptEncode_errPos (s : State) : s.acceptEncode.errPos = s.errPos := rfl
@[simp] theorem State.acceptEncode_phase (s : State) : s.acceptEncode.phase = .busy := rfl
@[simp] theorem State.acceptEncode_cur (s : State) : s.acceptEncode.cur = s.cur := rfl
@[simp] theorem State.acceptEncode_name (s : State) : s.acceptEncode.name = s.name := rfl
@[simp] theorem State.acceptEncode_len (s : State) : s.acceptEncode.len = s.len := rfl
@[simp] theorem State.acceptEncode_qd (s : State) : s.acceptEncode.qd = s.qd := rfl
@[simp] theorem State.acceptEncode_an (s : State) : s.acceptEncode.an = s.an := rfl
@[simp] theorem State.acceptEncode_ns (s : State) : s.acceptEncode.ns = s.ns := rfl
@[simp] theorem State.acceptEncode_ar (s : State) : s.acceptEncode.ar = s.ar := rfl
@[simp] theorem State.acceptEncode_sect (s : State) : s.acceptEncode.sect = s.sect := rfl
@[simp] theorem State.acceptEncode_idx (s : State) : s.acceptEncode.idx = s.idx := rfl
@[simp] theorem State.acceptEncode_opos (s : State) : s.acceptEncode.opos = 0 := rfl
@[simp] theorem State.acceptEncode_ctl (s : State) : s.acceptEncode.ctl = .encodeStart := rfl
@[simp] theorem State.acceptEncode_use (s : State) : s.acceptEncode.use = s.use := rfl
@[simp] theorem State.acceptEncode_recd (s : State) : s.acceptEncode.recd = s.recd := rfl
@[simp] theorem State.acceptEncode_draft (s : State) : s.acceptEncode.draft = s.draft := rfl
@[simp] theorem State.acceptEncode_out (s : State) : s.acceptEncode.out = [] := rfl
@[simp] theorem State.acceptEncode_host (s : State) : s.acceptEncode.host = s.host := rfl
@[simp] theorem State.acceptEncode_seen (s : State) : s.acceptEncode.seen = s.seen := rfl

@[simp] theorem State.succeed_params (s : State) : s.succeed.params = s.params := rfl
@[simp] theorem State.succeed_ibuf (s : State) : s.succeed.ibuf = s.ibuf := rfl
@[simp] theorem State.succeed_obuf (s : State) : s.succeed.obuf = s.obuf := rfl
@[simp] theorem State.succeed_msg (s : State) : s.succeed.msg = s.msg := rfl
@[simp] theorem State.succeed_status (s : State) : s.succeed.status = statusSuccess := rfl
@[simp] theorem State.succeed_inLen (s : State) : s.succeed.inLen = s.inLen := rfl
@[simp] theorem State.succeed_outLen (s : State) : s.succeed.outLen = s.outLen := rfl
@[simp] theorem State.succeed_errPos (s : State) : s.succeed.errPos = 0#16 := rfl
@[simp] theorem State.succeed_phase (s : State) : s.succeed.phase = .idle := rfl
@[simp] theorem State.succeed_cur (s : State) : s.succeed.cur = s.cur := rfl
@[simp] theorem State.succeed_name (s : State) : s.succeed.name = s.name := rfl
@[simp] theorem State.succeed_len (s : State) : s.succeed.len = s.len := rfl
@[simp] theorem State.succeed_qd (s : State) : s.succeed.qd = s.qd := rfl
@[simp] theorem State.succeed_an (s : State) : s.succeed.an = s.an := rfl
@[simp] theorem State.succeed_ns (s : State) : s.succeed.ns = s.ns := rfl
@[simp] theorem State.succeed_ar (s : State) : s.succeed.ar = s.ar := rfl
@[simp] theorem State.succeed_sect (s : State) : s.succeed.sect = s.sect := rfl
@[simp] theorem State.succeed_idx (s : State) : s.succeed.idx = s.idx := rfl
@[simp] theorem State.succeed_opos (s : State) : s.succeed.opos = s.opos := rfl
@[simp] theorem State.succeed_ctl (s : State) : s.succeed.ctl = s.ctl := rfl
@[simp] theorem State.succeed_use (s : State) : s.succeed.use = s.use := rfl
@[simp] theorem State.succeed_recd (s : State) : s.succeed.recd = s.recd := rfl
@[simp] theorem State.succeed_draft (s : State) : s.succeed.draft = s.draft := rfl
@[simp] theorem State.succeed_out (s : State) : s.succeed.out = s.out := rfl
@[simp] theorem State.succeed_host (s : State) : s.succeed.host = s.host := rfl
@[simp] theorem State.succeed_seen (s : State) : s.succeed.seen = s.seen := rfl

@[simp] theorem State.completeDecode_params (s : State) (m : Message) : (s.completeDecode m).params = s.params := rfl
@[simp] theorem State.completeDecode_ibuf (s : State) (m : Message) : (s.completeDecode m).ibuf = s.ibuf := rfl
@[simp] theorem State.completeDecode_obuf (s : State) (m : Message) : (s.completeDecode m).obuf = s.obuf := rfl
@[simp] theorem State.completeDecode_msg (s : State) (m : Message) : (s.completeDecode m).msg = some m := rfl
@[simp] theorem State.completeDecode_status (s : State) (m : Message) : (s.completeDecode m).status = statusSuccess := rfl
@[simp] theorem State.completeDecode_inLen (s : State) (m : Message) : (s.completeDecode m).inLen = s.inLen := rfl
@[simp] theorem State.completeDecode_outLen (s : State) (m : Message) : (s.completeDecode m).outLen = s.outLen := rfl
@[simp] theorem State.completeDecode_errPos (s : State) (m : Message) : (s.completeDecode m).errPos = 0#16 := rfl
@[simp] theorem State.completeDecode_phase (s : State) (m : Message) : (s.completeDecode m).phase = .idle := rfl
@[simp] theorem State.completeDecode_cur (s : State) (m : Message) : (s.completeDecode m).cur = s.cur := rfl
@[simp] theorem State.completeDecode_name (s : State) (m : Message) : (s.completeDecode m).name = s.name := rfl
@[simp] theorem State.completeDecode_len (s : State) (m : Message) : (s.completeDecode m).len = s.len := rfl
@[simp] theorem State.completeDecode_qd (s : State) (m : Message) : (s.completeDecode m).qd = s.qd := rfl
@[simp] theorem State.completeDecode_an (s : State) (m : Message) : (s.completeDecode m).an = s.an := rfl
@[simp] theorem State.completeDecode_ns (s : State) (m : Message) : (s.completeDecode m).ns = s.ns := rfl
@[simp] theorem State.completeDecode_ar (s : State) (m : Message) : (s.completeDecode m).ar = s.ar := rfl
@[simp] theorem State.completeDecode_sect (s : State) (m : Message) : (s.completeDecode m).sect = s.sect := rfl
@[simp] theorem State.completeDecode_idx (s : State) (m : Message) : (s.completeDecode m).idx = s.idx := rfl
@[simp] theorem State.completeDecode_opos (s : State) (m : Message) : (s.completeDecode m).opos = s.opos := rfl
@[simp] theorem State.completeDecode_ctl (s : State) (m : Message) : (s.completeDecode m).ctl = s.ctl := rfl
@[simp] theorem State.completeDecode_use (s : State) (m : Message) : (s.completeDecode m).use = s.use := rfl
@[simp] theorem State.completeDecode_recd (s : State) (m : Message) : (s.completeDecode m).recd = s.recd := rfl
@[simp] theorem State.completeDecode_draft (s : State) (m : Message) : (s.completeDecode m).draft = s.draft := rfl
@[simp] theorem State.completeDecode_out (s : State) (m : Message) : (s.completeDecode m).out = s.out := rfl
@[simp] theorem State.completeDecode_host (s : State) (m : Message) : (s.completeDecode m).host = s.host := rfl
@[simp] theorem State.completeDecode_seen (s : State) (m : Message) : (s.completeDecode m).seen = s.seen := rfl

@[simp] theorem State.completeEncode_params (s : State) (b : Bytes) : (s.completeEncode b).params = s.params := rfl
@[simp] theorem State.completeEncode_ibuf (s : State) (b : Bytes) : (s.completeEncode b).ibuf = s.ibuf := rfl
@[simp] theorem State.completeEncode_obuf (s : State) (b : Bytes) : (s.completeEncode b).obuf = s.obuf.writeBytes 0 b := rfl
@[simp] theorem State.completeEncode_msg (s : State) (b : Bytes) : (s.completeEncode b).msg = s.msg := rfl
@[simp] theorem State.completeEncode_status (s : State) (b : Bytes) : (s.completeEncode b).status = statusSuccess := rfl
@[simp] theorem State.completeEncode_inLen (s : State) (b : Bytes) : (s.completeEncode b).inLen = s.inLen := rfl
@[simp] theorem State.completeEncode_outLen (s : State) (b : Bytes) : (s.completeEncode b).outLen = BitVec.ofNat 16 b.length := rfl
@[simp] theorem State.completeEncode_errPos (s : State) (b : Bytes) : (s.completeEncode b).errPos = 0#16 := rfl
@[simp] theorem State.completeEncode_phase (s : State) (b : Bytes) : (s.completeEncode b).phase = .idle := rfl
@[simp] theorem State.completeEncode_cur (s : State) (b : Bytes) : (s.completeEncode b).cur = s.cur := rfl
@[simp] theorem State.completeEncode_name (s : State) (b : Bytes) : (s.completeEncode b).name = s.name := rfl
@[simp] theorem State.completeEncode_len (s : State) (b : Bytes) : (s.completeEncode b).len = s.len := rfl
@[simp] theorem State.completeEncode_qd (s : State) (b : Bytes) : (s.completeEncode b).qd = s.qd := rfl
@[simp] theorem State.completeEncode_an (s : State) (b : Bytes) : (s.completeEncode b).an = s.an := rfl
@[simp] theorem State.completeEncode_ns (s : State) (b : Bytes) : (s.completeEncode b).ns = s.ns := rfl
@[simp] theorem State.completeEncode_ar (s : State) (b : Bytes) : (s.completeEncode b).ar = s.ar := rfl
@[simp] theorem State.completeEncode_sect (s : State) (b : Bytes) : (s.completeEncode b).sect = s.sect := rfl
@[simp] theorem State.completeEncode_idx (s : State) (b : Bytes) : (s.completeEncode b).idx = s.idx := rfl
@[simp] theorem State.completeEncode_opos (s : State) (b : Bytes) : (s.completeEncode b).opos = s.opos := rfl
@[simp] theorem State.completeEncode_ctl (s : State) (b : Bytes) : (s.completeEncode b).ctl = s.ctl := rfl
@[simp] theorem State.completeEncode_use (s : State) (b : Bytes) : (s.completeEncode b).use = s.use := rfl
@[simp] theorem State.completeEncode_recd (s : State) (b : Bytes) : (s.completeEncode b).recd = s.recd := rfl
@[simp] theorem State.completeEncode_draft (s : State) (b : Bytes) : (s.completeEncode b).draft = s.draft := rfl
@[simp] theorem State.completeEncode_out (s : State) (b : Bytes) : (s.completeEncode b).out = s.out := rfl
@[simp] theorem State.completeEncode_host (s : State) (b : Bytes) : (s.completeEncode b).host = s.host := rfl
@[simp] theorem State.completeEncode_seen (s : State) (b : Bytes) : (s.completeEncode b).seen = s.seen := rfl

@[simp] theorem State.observe_params (s : State) (v : Seen) : (s.observe v).params = s.params := rfl
@[simp] theorem State.observe_ibuf (s : State) (v : Seen) : (s.observe v).ibuf = s.ibuf := rfl
@[simp] theorem State.observe_obuf (s : State) (v : Seen) : (s.observe v).obuf = s.obuf := rfl
@[simp] theorem State.observe_msg (s : State) (v : Seen) : (s.observe v).msg = s.msg := rfl
@[simp] theorem State.observe_status (s : State) (v : Seen) : (s.observe v).status = s.status := rfl
@[simp] theorem State.observe_inLen (s : State) (v : Seen) : (s.observe v).inLen = s.inLen := rfl
@[simp] theorem State.observe_outLen (s : State) (v : Seen) : (s.observe v).outLen = s.outLen := rfl
@[simp] theorem State.observe_errPos (s : State) (v : Seen) : (s.observe v).errPos = s.errPos := rfl
@[simp] theorem State.observe_phase (s : State) (v : Seen) : (s.observe v).phase = s.phase := rfl
@[simp] theorem State.observe_cur (s : State) (v : Seen) : (s.observe v).cur = s.cur := rfl
@[simp] theorem State.observe_name (s : State) (v : Seen) : (s.observe v).name = s.name := rfl
@[simp] theorem State.observe_len (s : State) (v : Seen) : (s.observe v).len = s.len := rfl
@[simp] theorem State.observe_qd (s : State) (v : Seen) : (s.observe v).qd = s.qd := rfl
@[simp] theorem State.observe_an (s : State) (v : Seen) : (s.observe v).an = s.an := rfl
@[simp] theorem State.observe_ns (s : State) (v : Seen) : (s.observe v).ns = s.ns := rfl
@[simp] theorem State.observe_ar (s : State) (v : Seen) : (s.observe v).ar = s.ar := rfl
@[simp] theorem State.observe_sect (s : State) (v : Seen) : (s.observe v).sect = s.sect := rfl
@[simp] theorem State.observe_idx (s : State) (v : Seen) : (s.observe v).idx = s.idx := rfl
@[simp] theorem State.observe_opos (s : State) (v : Seen) : (s.observe v).opos = s.opos := rfl
@[simp] theorem State.observe_ctl (s : State) (v : Seen) : (s.observe v).ctl = s.ctl := rfl
@[simp] theorem State.observe_use (s : State) (v : Seen) : (s.observe v).use = s.use := rfl
@[simp] theorem State.observe_recd (s : State) (v : Seen) : (s.observe v).recd = s.recd := rfl
@[simp] theorem State.observe_draft (s : State) (v : Seen) : (s.observe v).draft = s.draft := rfl
@[simp] theorem State.observe_out (s : State) (v : Seen) : (s.observe v).out = s.out := rfl
@[simp] theorem State.observe_host (s : State) (v : Seen) : (s.observe v).host = s.host := rfl
@[simp] theorem State.observe_seen (s : State) (v : Seen) : (s.observe v).seen = s.seen ++ [v] := rfl

@[simp] theorem State.finishRecord_params (s : State) (t : U16) (rd : RData) (next : Nat) : (s.finishRecord t rd next).params = s.params := rfl
@[simp] theorem State.finishRecord_ibuf (s : State) (t : U16) (rd : RData) (next : Nat) : (s.finishRecord t rd next).ibuf = s.ibuf := rfl
@[simp] theorem State.finishRecord_obuf (s : State) (t : U16) (rd : RData) (next : Nat) : (s.finishRecord t rd next).obuf = s.obuf := rfl
@[simp] theorem State.finishRecord_msg (s : State) (t : U16) (rd : RData) (next : Nat) : (s.finishRecord t rd next).msg = s.msg := rfl
@[simp] theorem State.finishRecord_status (s : State) (t : U16) (rd : RData) (next : Nat) : (s.finishRecord t rd next).status = s.status := rfl
@[simp] theorem State.finishRecord_inLen (s : State) (t : U16) (rd : RData) (next : Nat) : (s.finishRecord t rd next).inLen = s.inLen := rfl
@[simp] theorem State.finishRecord_outLen (s : State) (t : U16) (rd : RData) (next : Nat) : (s.finishRecord t rd next).outLen = s.outLen := rfl
@[simp] theorem State.finishRecord_errPos (s : State) (t : U16) (rd : RData) (next : Nat) : (s.finishRecord t rd next).errPos = s.errPos := rfl
@[simp] theorem State.finishRecord_phase (s : State) (t : U16) (rd : RData) (next : Nat) : (s.finishRecord t rd next).phase = s.phase := rfl
@[simp] theorem State.finishRecord_cur (s : State) (t : U16) (rd : RData) (next : Nat) : (s.finishRecord t rd next).cur = next := rfl
@[simp] theorem State.finishRecord_name (s : State) (t : U16) (rd : RData) (next : Nat) : (s.finishRecord t rd next).name = s.name := rfl
@[simp] theorem State.finishRecord_len (s : State) (t : U16) (rd : RData) (next : Nat) : (s.finishRecord t rd next).len = s.len := rfl
@[simp] theorem State.finishRecord_qd (s : State) (t : U16) (rd : RData) (next : Nat) : (s.finishRecord t rd next).qd = s.qd := rfl
@[simp] theorem State.finishRecord_an (s : State) (t : U16) (rd : RData) (next : Nat) : (s.finishRecord t rd next).an = s.an := rfl
@[simp] theorem State.finishRecord_ns (s : State) (t : U16) (rd : RData) (next : Nat) : (s.finishRecord t rd next).ns = s.ns := rfl
@[simp] theorem State.finishRecord_ar (s : State) (t : U16) (rd : RData) (next : Nat) : (s.finishRecord t rd next).ar = s.ar := rfl
@[simp] theorem State.finishRecord_sect (s : State) (t : U16) (rd : RData) (next : Nat) : (s.finishRecord t rd next).sect = s.sect := rfl
@[simp] theorem State.finishRecord_idx (s : State) (t : U16) (rd : RData) (next : Nat) : (s.finishRecord t rd next).idx = s.idx + 1 := rfl
@[simp] theorem State.finishRecord_opos (s : State) (t : U16) (rd : RData) (next : Nat) : (s.finishRecord t rd next).opos = s.opos := rfl
@[simp] theorem State.finishRecord_ctl (s : State) (t : U16) (rd : RData) (next : Nat) : (s.finishRecord t rd next).ctl = .walk := rfl
@[simp] theorem State.finishRecord_use (s : State) (t : U16) (rd : RData) (next : Nat) : (s.finishRecord t rd next).use = s.use := rfl
@[simp] theorem State.finishRecord_recd (s : State) (t : U16) (rd : RData) (next : Nat) : (s.finishRecord t rd next).recd = s.recd := rfl
@[simp] theorem State.finishRecord_draft (s : State) (t : U16) (rd : RData) (next : Nat) : (s.finishRecord t rd next).draft = s.draft.addRecord s.sect ⟨s.recd.name, t, s.recd.rclass, s.recd.ttl, rd⟩ := rfl
@[simp] theorem State.finishRecord_out (s : State) (t : U16) (rd : RData) (next : Nat) : (s.finishRecord t rd next).out = s.out := rfl
@[simp] theorem State.finishRecord_host (s : State) (t : U16) (rd : RData) (next : Nat) : (s.finishRecord t rd next).host = s.host := rfl
@[simp] theorem State.finishRecord_seen (s : State) (t : U16) (rd : RData) (next : Nat) : (s.finishRecord t rd next).seen = s.seen := rfl

@[simp] theorem State.giveTurn_params (s : State) : s.giveTurn.params = s.params := rfl
@[simp] theorem State.giveTurn_ibuf (s : State) : s.giveTurn.ibuf = s.ibuf := rfl
@[simp] theorem State.giveTurn_obuf (s : State) : s.giveTurn.obuf = s.obuf := rfl
@[simp] theorem State.giveTurn_msg (s : State) : s.giveTurn.msg = s.msg := rfl
@[simp] theorem State.giveTurn_status (s : State) : s.giveTurn.status = statusRunning := rfl
@[simp] theorem State.giveTurn_inLen (s : State) : s.giveTurn.inLen = s.inLen := rfl
@[simp] theorem State.giveTurn_outLen (s : State) : s.giveTurn.outLen = s.outLen := rfl
@[simp] theorem State.giveTurn_errPos (s : State) : s.giveTurn.errPos = s.errPos := rfl
@[simp] theorem State.giveTurn_phase (s : State) : s.giveTurn.phase = .busy := rfl
@[simp] theorem State.giveTurn_cur (s : State) : s.giveTurn.cur = s.cur := rfl
@[simp] theorem State.giveTurn_name (s : State) : s.giveTurn.name = s.name := rfl
@[simp] theorem State.giveTurn_len (s : State) : s.giveTurn.len = s.len := rfl
@[simp] theorem State.giveTurn_qd (s : State) : s.giveTurn.qd = s.qd := rfl
@[simp] theorem State.giveTurn_an (s : State) : s.giveTurn.an = s.an := rfl
@[simp] theorem State.giveTurn_ns (s : State) : s.giveTurn.ns = s.ns := rfl
@[simp] theorem State.giveTurn_ar (s : State) : s.giveTurn.ar = s.ar := rfl
@[simp] theorem State.giveTurn_sect (s : State) : s.giveTurn.sect = s.sect := rfl
@[simp] theorem State.giveTurn_idx (s : State) : s.giveTurn.idx = s.idx := rfl
@[simp] theorem State.giveTurn_opos (s : State) : s.giveTurn.opos = s.opos := rfl
@[simp] theorem State.giveTurn_ctl (s : State) : s.giveTurn.ctl = s.ctl := rfl
@[simp] theorem State.giveTurn_use (s : State) : s.giveTurn.use = s.use := rfl
@[simp] theorem State.giveTurn_recd (s : State) : s.giveTurn.recd = s.recd := rfl
@[simp] theorem State.giveTurn_draft (s : State) : s.giveTurn.draft = s.draft := rfl
@[simp] theorem State.giveTurn_out (s : State) : s.giveTurn.out = s.out := rfl
@[simp] theorem State.giveTurn_host (s : State) : s.giveTurn.host = .pass :: s.host := rfl
@[simp] theorem State.giveTurn_seen (s : State) : s.giveTurn.seen = s.seen := rfl

@[simp] theorem State.resetEvent_params (s : State) : s.resetEvent.params = s.params := rfl
@[simp] theorem State.resetEvent_ibuf (s : State) : s.resetEvent.ibuf = [] := rfl
@[simp] theorem State.resetEvent_obuf (s : State) : s.resetEvent.obuf = [] := rfl
@[simp] theorem State.resetEvent_msg (s : State) : s.resetEvent.msg = none := rfl
@[simp] theorem State.resetEvent_status (s : State) : s.resetEvent.status = 0#32 := rfl
@[simp] theorem State.resetEvent_inLen (s : State) : s.resetEvent.inLen = 0#16 := rfl
@[simp] theorem State.resetEvent_outLen (s : State) : s.resetEvent.outLen = 0#16 := rfl
@[simp] theorem State.resetEvent_errPos (s : State) : s.resetEvent.errPos = 0#16 := rfl
@[simp] theorem State.resetEvent_phase (s : State) : s.resetEvent.phase = .idle := rfl
@[simp] theorem State.resetEvent_cur (s : State) : s.resetEvent.cur = 0 := rfl
@[simp] theorem State.resetEvent_name (s : State) : s.resetEvent.name = NameRegs.initial := rfl
@[simp] theorem State.resetEvent_len (s : State) : s.resetEvent.len = 0 := rfl
@[simp] theorem State.resetEvent_qd (s : State) : s.resetEvent.qd = 0#16 := rfl
@[simp] theorem State.resetEvent_an (s : State) : s.resetEvent.an = 0#16 := rfl
@[simp] theorem State.resetEvent_ns (s : State) : s.resetEvent.ns = 0#16 := rfl
@[simp] theorem State.resetEvent_ar (s : State) : s.resetEvent.ar = 0#16 := rfl
@[simp] theorem State.resetEvent_sect (s : State) : s.resetEvent.sect = .header := rfl
@[simp] theorem State.resetEvent_idx (s : State) : s.resetEvent.idx = 0 := rfl
@[simp] theorem State.resetEvent_opos (s : State) : s.resetEvent.opos = 0 := rfl
@[simp] theorem State.resetEvent_ctl (s : State) : s.resetEvent.ctl = .decodeStart := rfl
@[simp] theorem State.resetEvent_use (s : State) : s.resetEvent.use = .owner := rfl
@[simp] theorem State.resetEvent_recd (s : State) : s.resetEvent.recd = RecordRegs.initial := rfl
@[simp] theorem State.resetEvent_draft (s : State) : s.resetEvent.draft = Message.blank := rfl
@[simp] theorem State.resetEvent_out (s : State) : s.resetEvent.out = [] := rfl
@[simp] theorem State.resetEvent_host (s : State) : s.resetEvent.host = s.host := rfl
@[simp] theorem State.resetEvent_seen (s : State) : s.resetEvent.seen = s.seen := rfl

@[simp] theorem State.raise_params (s : State) (job : Job) (e : Err) : (s.raise job e).params = s.params := by cases job <;> rfl
@[simp] theorem State.raise_ibuf (s : State) (job : Job) (e : Err) : (s.raise job e).ibuf = s.ibuf := by cases job <;> rfl
@[simp] theorem State.raise_status (s : State) (job : Job) (e : Err) : (s.raise job e).status = statusFailure e := by cases job <;> rfl
@[simp] theorem State.raise_inLen (s : State) (job : Job) (e : Err) : (s.raise job e).inLen = s.inLen := by cases job <;> rfl
@[simp] theorem State.raise_errPos (s : State) (job : Job) (e : Err) : (s.raise job e).errPos = BitVec.ofNat 16 (errPosition e) := by cases job <;> rfl
@[simp] theorem State.raise_phase (s : State) (job : Job) (e : Err) : (s.raise job e).phase = .idle := by cases job <;> rfl
@[simp] theorem State.raise_cur (s : State) (job : Job) (e : Err) : (s.raise job e).cur = s.cur := by cases job <;> rfl
@[simp] theorem State.raise_name (s : State) (job : Job) (e : Err) : (s.raise job e).name = s.name := by cases job <;> rfl
@[simp] theorem State.raise_len (s : State) (job : Job) (e : Err) : (s.raise job e).len = s.len := by cases job <;> rfl
@[simp] theorem State.raise_qd (s : State) (job : Job) (e : Err) : (s.raise job e).qd = s.qd := by cases job <;> rfl
@[simp] theorem State.raise_an (s : State) (job : Job) (e : Err) : (s.raise job e).an = s.an := by cases job <;> rfl
@[simp] theorem State.raise_ns (s : State) (job : Job) (e : Err) : (s.raise job e).ns = s.ns := by cases job <;> rfl
@[simp] theorem State.raise_ar (s : State) (job : Job) (e : Err) : (s.raise job e).ar = s.ar := by cases job <;> rfl
@[simp] theorem State.raise_sect (s : State) (job : Job) (e : Err) : (s.raise job e).sect = s.sect := by cases job <;> rfl
@[simp] theorem State.raise_idx (s : State) (job : Job) (e : Err) : (s.raise job e).idx = s.idx := by cases job <;> rfl
@[simp] theorem State.raise_opos (s : State) (job : Job) (e : Err) : (s.raise job e).opos = s.opos := by cases job <;> rfl
@[simp] theorem State.raise_ctl (s : State) (job : Job) (e : Err) : (s.raise job e).ctl = s.ctl := by cases job <;> rfl
@[simp] theorem State.raise_use (s : State) (job : Job) (e : Err) : (s.raise job e).use = s.use := by cases job <;> rfl
@[simp] theorem State.raise_recd (s : State) (job : Job) (e : Err) : (s.raise job e).recd = s.recd := by cases job <;> rfl
@[simp] theorem State.raise_draft (s : State) (job : Job) (e : Err) : (s.raise job e).draft = s.draft := by cases job <;> rfl
@[simp] theorem State.raise_out (s : State) (job : Job) (e : Err) : (s.raise job e).out = s.out := by cases job <;> rfl
@[simp] theorem State.raise_host (s : State) (job : Job) (e : Err) : (s.raise job e).host = s.host := by cases job <;> rfl
@[simp] theorem State.raise_seen (s : State) (job : Job) (e : Err) : (s.raise job e).seen = s.seen := by cases job <;> rfl

@[simp] theorem State.dropResults_params (s : State) (job : Job) : (s.dropResults job).params = s.params := by cases job <;> rfl
@[simp] theorem State.dropResults_ibuf (s : State) (job : Job) : (s.dropResults job).ibuf = s.ibuf := by cases job <;> rfl
@[simp] theorem State.dropResults_status (s : State) (job : Job) : (s.dropResults job).status = s.status := by cases job <;> rfl
@[simp] theorem State.dropResults_inLen (s : State) (job : Job) : (s.dropResults job).inLen = s.inLen := by cases job <;> rfl
@[simp] theorem State.dropResults_errPos (s : State) (job : Job) : (s.dropResults job).errPos = s.errPos := by cases job <;> rfl
@[simp] theorem State.dropResults_phase (s : State) (job : Job) : (s.dropResults job).phase = s.phase := by cases job <;> rfl
@[simp] theorem State.dropResults_cur (s : State) (job : Job) : (s.dropResults job).cur = s.cur := by cases job <;> rfl
@[simp] theorem State.dropResults_name (s : State) (job : Job) : (s.dropResults job).name = s.name := by cases job <;> rfl
@[simp] theorem State.dropResults_len (s : State) (job : Job) : (s.dropResults job).len = s.len := by cases job <;> rfl
@[simp] theorem State.dropResults_qd (s : State) (job : Job) : (s.dropResults job).qd = s.qd := by cases job <;> rfl
@[simp] theorem State.dropResults_an (s : State) (job : Job) : (s.dropResults job).an = s.an := by cases job <;> rfl
@[simp] theorem State.dropResults_ns (s : State) (job : Job) : (s.dropResults job).ns = s.ns := by cases job <;> rfl
@[simp] theorem State.dropResults_ar (s : State) (job : Job) : (s.dropResults job).ar = s.ar := by cases job <;> rfl
@[simp] theorem State.dropResults_sect (s : State) (job : Job) : (s.dropResults job).sect = s.sect := by cases job <;> rfl
@[simp] theorem State.dropResults_idx (s : State) (job : Job) : (s.dropResults job).idx = s.idx := by cases job <;> rfl
@[simp] theorem State.dropResults_opos (s : State) (job : Job) : (s.dropResults job).opos = s.opos := by cases job <;> rfl
@[simp] theorem State.dropResults_ctl (s : State) (job : Job) : (s.dropResults job).ctl = s.ctl := by cases job <;> rfl
@[simp] theorem State.dropResults_use (s : State) (job : Job) : (s.dropResults job).use = s.use := by cases job <;> rfl
@[simp] theorem State.dropResults_recd (s : State) (job : Job) : (s.dropResults job).recd = s.recd := by cases job <;> rfl
@[simp] theorem State.dropResults_draft (s : State) (job : Job) : (s.dropResults job).draft = s.draft := by cases job <;> rfl
@[simp] theorem State.dropResults_out (s : State) (job : Job) : (s.dropResults job).out = s.out := by cases job <;> rfl
@[simp] theorem State.dropResults_host (s : State) (job : Job) : (s.dropResults job).host = s.host := by cases job <;> rfl
@[simp] theorem State.dropResults_seen (s : State) (job : Job) : (s.dropResults job).seen = s.seen := by cases job <;> rfl

@[simp] theorem State.setHeader_params (s : State) (f : HeaderField) (v : U16) : (s.setHeader f v).params = s.params := by cases f <;> rfl
@[simp] theorem State.setHeader_ibuf (s : State) (f : HeaderField) (v : U16) : (s.setHeader f v).ibuf = s.ibuf := by cases f <;> rfl
@[simp] theorem State.setHeader_obuf (s : State) (f : HeaderField) (v : U16) : (s.setHeader f v).obuf = s.obuf := by cases f <;> rfl
@[simp] theorem State.setHeader_msg (s : State) (f : HeaderField) (v : U16) : (s.setHeader f v).msg = s.msg := by cases f <;> rfl
@[simp] theorem State.setHeader_status (s : State) (f : HeaderField) (v : U16) : (s.setHeader f v).status = s.status := by cases f <;> rfl
@[simp] theorem State.setHeader_inLen (s : State) (f : HeaderField) (v : U16) : (s.setHeader f v).inLen = s.inLen := by cases f <;> rfl
@[simp] theorem State.setHeader_outLen (s : State) (f : HeaderField) (v : U16) : (s.setHeader f v).outLen = s.outLen := by cases f <;> rfl
@[simp] theorem State.setHeader_errPos (s : State) (f : HeaderField) (v : U16) : (s.setHeader f v).errPos = s.errPos := by cases f <;> rfl
@[simp] theorem State.setHeader_phase (s : State) (f : HeaderField) (v : U16) : (s.setHeader f v).phase = s.phase := by cases f <;> rfl
@[simp] theorem State.setHeader_cur (s : State) (f : HeaderField) (v : U16) : (s.setHeader f v).cur = s.cur := by cases f <;> rfl
@[simp] theorem State.setHeader_name (s : State) (f : HeaderField) (v : U16) : (s.setHeader f v).name = s.name := by cases f <;> rfl
@[simp] theorem State.setHeader_len (s : State) (f : HeaderField) (v : U16) : (s.setHeader f v).len = s.len := by cases f <;> rfl
@[simp] theorem State.setHeader_sect (s : State) (f : HeaderField) (v : U16) : (s.setHeader f v).sect = s.sect := by cases f <;> rfl
@[simp] theorem State.setHeader_idx (s : State) (f : HeaderField) (v : U16) : (s.setHeader f v).idx = s.idx := by cases f <;> rfl
@[simp] theorem State.setHeader_opos (s : State) (f : HeaderField) (v : U16) : (s.setHeader f v).opos = s.opos := by cases f <;> rfl
@[simp] theorem State.setHeader_ctl (s : State) (f : HeaderField) (v : U16) : (s.setHeader f v).ctl = s.ctl := by cases f <;> rfl
@[simp] theorem State.setHeader_use (s : State) (f : HeaderField) (v : U16) : (s.setHeader f v).use = s.use := by cases f <;> rfl
@[simp] theorem State.setHeader_recd (s : State) (f : HeaderField) (v : U16) : (s.setHeader f v).recd = s.recd := by cases f <;> rfl
@[simp] theorem State.setHeader_out (s : State) (f : HeaderField) (v : U16) : (s.setHeader f v).out = s.out := by cases f <;> rfl
@[simp] theorem State.setHeader_host (s : State) (f : HeaderField) (v : U16) : (s.setHeader f v).host = s.host := by cases f <;> rfl
@[simp] theorem State.setHeader_seen (s : State) (f : HeaderField) (v : U16) : (s.setHeader f v).seen = s.seen := by cases f <;> rfl

@[simp] theorem State.leaveSection_params (s : State) (c : Ctl) : (s.leaveSection c).params = s.params := by unfold State.leaveSection; split <;> rfl
@[simp] theorem State.leaveSection_ibuf (s : State) (c : Ctl) : (s.leaveSection c).ibuf = s.ibuf := by unfold State.leaveSection; split <;> rfl
@[simp] theorem State.leaveSection_obuf (s : State) (c : Ctl) : (s.leaveSection c).obuf = s.obuf := by unfold State.leaveSection; split <;> rfl
@[simp] theorem State.leaveSection_msg (s : State) (c : Ctl) : (s.leaveSection c).msg = s.msg := by unfold State.leaveSection; split <;> rfl
@[simp] theorem State.leaveSection_status (s : State) (c : Ctl) : (s.leaveSection c).status = s.status := by unfold State.leaveSection; split <;> rfl
@[simp] theorem State.leaveSection_inLen (s : State) (c : Ctl) : (s.leaveSection c).inLen = s.inLen := by unfold State.leaveSection; split <;> rfl
@[simp] theorem State.leaveSection_outLen (s : State) (c : Ctl) : (s.leaveSection c).outLen = s.outLen := by unfold State.leaveSection; split <;> rfl
@[simp] theorem State.leaveSection_errPos (s : State) (c : Ctl) : (s.leaveSection c).errPos = s.errPos := by unfold State.leaveSection; split <;> rfl
@[simp] theorem State.leaveSection_phase (s : State) (c : Ctl) : (s.leaveSection c).phase = s.phase := by unfold State.leaveSection; split <;> rfl
@[simp] theorem State.leaveSection_cur (s : State) (c : Ctl) : (s.leaveSection c).cur = s.cur := by unfold State.leaveSection; split <;> rfl
@[simp] theorem State.leaveSection_name (s : State) (c : Ctl) : (s.leaveSection c).name = s.name := by unfold State.leaveSection; split <;> rfl
@[simp] theorem State.leaveSection_len (s : State) (c : Ctl) : (s.leaveSection c).len = s.len := by unfold State.leaveSection; split <;> rfl
@[simp] theorem State.leaveSection_qd (s : State) (c : Ctl) : (s.leaveSection c).qd = s.qd := by unfold State.leaveSection; split <;> rfl
@[simp] theorem State.leaveSection_an (s : State) (c : Ctl) : (s.leaveSection c).an = s.an := by unfold State.leaveSection; split <;> rfl
@[simp] theorem State.leaveSection_ns (s : State) (c : Ctl) : (s.leaveSection c).ns = s.ns := by unfold State.leaveSection; split <;> rfl
@[simp] theorem State.leaveSection_ar (s : State) (c : Ctl) : (s.leaveSection c).ar = s.ar := by unfold State.leaveSection; split <;> rfl
@[simp] theorem State.leaveSection_opos (s : State) (c : Ctl) : (s.leaveSection c).opos = s.opos := by unfold State.leaveSection; split <;> rfl
@[simp] theorem State.leaveSection_use (s : State) (c : Ctl) : (s.leaveSection c).use = s.use := by unfold State.leaveSection; split <;> rfl
@[simp] theorem State.leaveSection_recd (s : State) (c : Ctl) : (s.leaveSection c).recd = s.recd := by unfold State.leaveSection; split <;> rfl
@[simp] theorem State.leaveSection_draft (s : State) (c : Ctl) : (s.leaveSection c).draft = s.draft := by unfold State.leaveSection; split <;> rfl
@[simp] theorem State.leaveSection_out (s : State) (c : Ctl) : (s.leaveSection c).out = s.out := by unfold State.leaveSection; split <;> rfl
@[simp] theorem State.leaveSection_host (s : State) (c : Ctl) : (s.leaveSection c).host = s.host := by unfold State.leaveSection; split <;> rfl
@[simp] theorem State.leaveSection_seen (s : State) (c : Ctl) : (s.leaveSection c).seen = s.seen := by unfold State.leaveSection; split <;> rfl

@[simp] theorem State.returnName_params (s : State) (nm : DomainName) (next : Nat) : (s.returnName nm next).params = s.params := by unfold State.returnName; split <;> rfl
@[simp] theorem State.returnName_ibuf (s : State) (nm : DomainName) (next : Nat) : (s.returnName nm next).ibuf = s.ibuf := by unfold State.returnName; split <;> rfl
@[simp] theorem State.returnName_obuf (s : State) (nm : DomainName) (next : Nat) : (s.returnName nm next).obuf = s.obuf := by unfold State.returnName; split <;> rfl
@[simp] theorem State.returnName_msg (s : State) (nm : DomainName) (next : Nat) : (s.returnName nm next).msg = s.msg := by unfold State.returnName; split <;> rfl
@[simp] theorem State.returnName_status (s : State) (nm : DomainName) (next : Nat) : (s.returnName nm next).status = s.status := by unfold State.returnName; split <;> rfl
@[simp] theorem State.returnName_inLen (s : State) (nm : DomainName) (next : Nat) : (s.returnName nm next).inLen = s.inLen := by unfold State.returnName; split <;> rfl
@[simp] theorem State.returnName_outLen (s : State) (nm : DomainName) (next : Nat) : (s.returnName nm next).outLen = s.outLen := by unfold State.returnName; split <;> rfl
@[simp] theorem State.returnName_errPos (s : State) (nm : DomainName) (next : Nat) : (s.returnName nm next).errPos = s.errPos := by unfold State.returnName; split <;> rfl
@[simp] theorem State.returnName_phase (s : State) (nm : DomainName) (next : Nat) : (s.returnName nm next).phase = s.phase := by unfold State.returnName; split <;> rfl
@[simp] theorem State.returnName_cur (s : State) (nm : DomainName) (next : Nat) : (s.returnName nm next).cur = next := by unfold State.returnName; split <;> rfl
@[simp] theorem State.returnName_name (s : State) (nm : DomainName) (next : Nat) : (s.returnName nm next).name = s.name := by unfold State.returnName; split <;> rfl
@[simp] theorem State.returnName_len (s : State) (nm : DomainName) (next : Nat) : (s.returnName nm next).len = s.len := by unfold State.returnName; split <;> rfl
@[simp] theorem State.returnName_qd (s : State) (nm : DomainName) (next : Nat) : (s.returnName nm next).qd = s.qd := by unfold State.returnName; split <;> rfl
@[simp] theorem State.returnName_an (s : State) (nm : DomainName) (next : Nat) : (s.returnName nm next).an = s.an := by unfold State.returnName; split <;> rfl
@[simp] theorem State.returnName_ns (s : State) (nm : DomainName) (next : Nat) : (s.returnName nm next).ns = s.ns := by unfold State.returnName; split <;> rfl
@[simp] theorem State.returnName_ar (s : State) (nm : DomainName) (next : Nat) : (s.returnName nm next).ar = s.ar := by unfold State.returnName; split <;> rfl
@[simp] theorem State.returnName_sect (s : State) (nm : DomainName) (next : Nat) : (s.returnName nm next).sect = s.sect := by unfold State.returnName; split <;> rfl
@[simp] theorem State.returnName_opos (s : State) (nm : DomainName) (next : Nat) : (s.returnName nm next).opos = s.opos := by unfold State.returnName; split <;> rfl
@[simp] theorem State.returnName_use (s : State) (nm : DomainName) (next : Nat) : (s.returnName nm next).use = s.use := by unfold State.returnName; split <;> rfl
@[simp] theorem State.returnName_out (s : State) (nm : DomainName) (next : Nat) : (s.returnName nm next).out = s.out := by unfold State.returnName; split <;> rfl
@[simp] theorem State.returnName_host (s : State) (nm : DomainName) (next : Nat) : (s.returnName nm next).host = s.host := by unfold State.returnName; split <;> rfl
@[simp] theorem State.returnName_seen (s : State) (nm : DomainName) (next : Nat) : (s.returnName nm next).seen = s.seen := by unfold State.returnName; split <;> rfl

@[simp] theorem State.raise_decode_msg (s : State) (e : Err) : (s.raise .decode e).msg = none := rfl
@[simp] theorem State.raise_decode_obuf (s : State) (e : Err) : (s.raise .decode e).obuf = s.obuf := rfl
@[simp] theorem State.raise_decode_outLen (s : State) (e : Err) : (s.raise .decode e).outLen = s.outLen := rfl
@[simp] theorem State.raise_encode_msg (s : State) (e : Err) : (s.raise .encode e).msg = s.msg := rfl
@[simp] theorem State.raise_encode_obuf (s : State) (e : Err) : (s.raise .encode e).obuf = [] := rfl
@[simp] theorem State.raise_encode_outLen (s : State) (e : Err) : (s.raise .encode e).outLen = 0#16 := rfl
@[simp] theorem State.raise_illegal_msg (s : State) (e : Err) : (s.raise .illegal e).msg = s.msg := rfl
@[simp] theorem State.raise_illegal_obuf (s : State) (e : Err) : (s.raise .illegal e).obuf = s.obuf := rfl
@[simp] theorem State.raise_illegal_outLen (s : State) (e : Err) : (s.raise .illegal e).outLen = s.outLen := rfl

@[simp] theorem State.input_ibuf (s : State) : s.input.ibuf = s.ibuf := rfl
@[simp] theorem State.input_len (s : State) : s.input.len = s.len := rfl
@[simp] theorem State.input_params (s : State) : s.input.params = s.params := rfl

@[simp] theorem NameRegs.start_p (a : Nat) : (NameRegs.start a).p = a := rfl
@[simp] theorem NameRegs.start_fin (a : Nat) : (NameRegs.start a).fin = none := rfl
@[simp] theorem NameRegs.start_hops (a : Nat) : (NameRegs.start a).hops = 0 := rfl
@[simp] theorem NameRegs.start_acc (a : Nat) : (NameRegs.start a).acc = [] := rfl

end Sys2Proof.Machine
end

