-- ==== Sys2Proof/Laws/Step.lean ====
section
/-! SUPPORT. What one step can do, said once: the events a step can be, and for each kind of event the moves that
give a next state. Later proofs about every step go by cases on these. -/

namespace Sys2Proof.Machine

/-- The answer of what was fetched. -/
def Fetched.result : Fetched → Result
  | .run i t => exec i t
  | .act r => r

/-- A step is the answer of what it fetches. -/
theorem step_result (s : State) : step s = (fetch s).result := by
  unfold step
  split <;> simp [Fetched.result, *]

/-- The events a step can be. -/
inductive Event (s : State) (f : Fetched) : Prop where
  /-- DNSC takes a step of its command. -/
  | engine (u : State) (hu : s.engineState = some u) (hf : f = u.engine)
  /-- IDLE and the host has nothing to do. -/
  | rest (hp : s.phase = .idle) (hh : s.host = []) (hf : f = .act (.next s))
  /-- IDLE and the host passes. -/
  | pass (tl : List HostEvent) (hp : s.phase = .idle) (hh : s.host = .pass :: tl)
      (hf : f = .act (.next { s with host := tl }))
  /-- IDLE and the host's wait ends with its read of STATUS. -/
  | waited (tl : List HostEvent) (hp : s.phase = .idle) (hh : s.host = .wait :: tl)
      (hf : f = .act (State.busRead { s with host := tl } 0x04#18 .w32))
  /-- A bus access. -/
  | bus (a : Access) (tl : List HostEvent) (hh : s.host = .bus a :: tl)
      (hf : f = State.busAccess { s with host := tl } a)
  /-- `msg_read()`. -/
  | msgRead (tl : List HostEvent) (hh : s.host = .msgRead :: tl)
      (hf : f = .act (State.msgRead { s with host := tl }))
  /-- `msg_write(m)`. -/
  | msgWrite (m : Message) (tl : List HostEvent) (hh : s.host = .msgWrite m :: tl)
      (hf : f = .act (State.msgWrite { s with host := tl } m))
  /-- Reset. -/
  | reset (tl : List HostEvent) (hh : s.host = .reset :: tl)
      (hf : f = .act (.next (State.resetEvent { s with host := tl })))

/-- Every step is one of these events. -/
theorem fetch_event (s : State) : Event s (fetch s) := by
  cases hp : s.phase <;> cases hh : s.host with
  | nil =>
    first
    | exact .rest hp hh (by simp [fetch, hh, State.dnscTurn, hp])
    | exact .engine s (by simp [State.engineState, hh, hp]) (by simp [fetch, hh, State.dnscTurn, hp])
  | cons e tl =>
    cases e with
    | bus a => exact .bus a tl hh (by simp [fetch, hh])
    | msgRead => exact .msgRead tl hh (by simp [fetch, hh])
    | msgWrite m => exact .msgWrite m tl hh (by simp [fetch, hh])
    | reset => exact .reset tl hh (by simp [fetch, hh])
    | wait =>
      first
      | exact .waited tl hp hh (by simp [fetch, hh, hp])
      | exact .engine s (by simp [State.engineState, hh, hp]) (by simp [fetch, hh, State.dnscTurn, hp])
    | pass =>
      first
      | exact .pass tl hp hh (by simp [fetch, hh, State.dnscTurn, hp])
      | exact .engine { s with host := tl } (by simp [State.engineState, hh, hp])
          (by simp [fetch, hh, State.dnscTurn, hp])

/-- DNSC's own state is the state with at most one host entry taken off, and it is BUSY. -/
theorem engineState_eq {s u : State} (h : s.engineState = some u) :
    s.phase = .busy ∧ ∃ tl, u = { s with host := tl } := by
  unfold State.engineState at h
  split at h
  · cases h
  · next hp =>
    refine ⟨hp, ?_⟩
    split at h <;> cases h
    · exact ⟨s.host, rfl⟩
    · exact ⟨s.host, rfl⟩
    · exact ⟨_, rfl⟩

/-- A host read that answers a next state has added what it saw, and nothing else. -/
theorem observeOr_next {s t : State} {v : Option Seen} (h : s.observeOr v = .next t) :
    ∃ w, v = some w ∧ t = s.observe w := by
  cases v with
  | none => cases h
  | some w => exact ⟨w, rfl, by simpa [State.observeOr] using h.symm⟩

/-- A bus read that answers a next state has added what it saw, and nothing else. -/
theorem busRead_next {s t : State} {addr : BitVec 18} {w : Width} (h : s.busRead addr w = .next t) :
    ∃ v, t = s.observe v := by
  unfold State.busRead at h
  split_ifs at h
  split at h
  · obtain ⟨v, -, ht⟩ := observeOr_next h; exact ⟨v, ht⟩
  · obtain ⟨v, -, ht⟩ := observeOr_next h; exact ⟨v, ht⟩
  · obtain ⟨v, -, ht⟩ := observeOr_next h; exact ⟨v, ht⟩
  · split at h <;> exact ⟨_, by simpa using h.symm⟩

/-- `msg_read()` answers only while IDLE. -/
theorem msgRead_next {s t : State} (h : s.msgRead = .next t) : s.phase = .idle ∧ ∃ v, t = s.observe v := by
  unfold State.msgRead at h
  split at h
  · cases h
  · next hp => obtain ⟨v, -, ht⟩ := observeOr_next h; exact ⟨hp, v, ht⟩

/-- `msg_write(m)` stores only while IDLE and only what fits. -/
theorem msgWrite_next {s t : State} {m : Message} (h : s.msgWrite m = .next t) :
    s.phase = .idle ∧ messageFits s.params m = true ∧ t = { s with msg := some m } := by
  unfold State.msgWrite at h
  split at h
  · cases h
  · next hp =>
    split_ifs at h with hf
    exact ⟨hp, hf, by simpa using h.symm⟩

/-- What a bus write that answers a next state did. -/
inductive BusWrote (s : State) (addr : BitVec 18) (w : Width) (data : U32) (t : State) : Prop where
  /-- A write of CMD ran the command it selects. -/
  | command (ha : addr = 0x00#18) (hw : w = .w32) (ht : exec (decodeCmd data) s = .next t)
  /-- A write of IN_LEN. -/
  | inLen (ha : addr = 0x08#18) (hw : w = .w32) (ht : t = { s with inLen := data.extractLsb' 0 16 })
  /-- A write of an IBUF byte. -/
  | ibuf (o : Nat) (ha : addr.toNat = 0x10000 + o) (ho : o < 0x10000) (hcap : o < s.params.ibufCap) (hw : w = .w8)
      (hp : s.phase = .idle) (ht : t = { s with ibuf := s.ibuf.write o (data.extractLsb' 0 8) })
  /-- An ignored write. -/
  | ignored (ht : t = s)

/-- All that a bus write can do. -/
theorem busWrite_next {s t : State} {addr : BitVec 18} {w : Width} {data : U32}
    (h : (s.busWrite addr w data).result = .next t) : BusWrote s addr w data t := by
  unfold State.busWrite at h
  split at h
  · next hdef =>
    cases hr : region addr with
    | registers =>
      simp only [accessDefined, hr, Bool.and_eq_true, decide_eq_true_eq] at hdef
      simp only [hr] at h
      split_ifs at h with h0 h8
      · exact .command h0 hdef.1 h
      · exact .inLen h8 hdef.1 (by simpa [Fetched.result] using h.symm)
      · exact .ignored (by simpa [Fetched.result] using h.symm)
    | ibufWindow =>
      simp only [accessDefined, hr, decide_eq_true_eq] at hdef
      simp only [hr, Fetched.result, State.writeIbuf] at h
      have hlt : 0x10000 ≤ addr.toNat ∧ addr.toNat < 0x20000 := by
        unfold region at hr
        split_ifs at hr
        omega
      split at h
      · next hcap =>
        split at h
        · cases h
        · next hp =>
          refine .ibuf (windowOffset addr) ?_ ?_ hcap hdef hp (by simpa using h.symm)
          · unfold windowOffset; omega
          · unfold windowOffset; omega
      · exact .ignored (by simpa using h.symm)
    | obufWindow =>
      simp only [hr] at h
      exact .ignored (by simpa [Fetched.result] using h.symm)
    | unmapped =>
      simp only [hr] at h
      exact .ignored (by simpa [Fetched.result] using h.symm)
  · cases h

/-- What a command write that answers a next state did. -/
inductive Commanded (s : State) (v : U32) (t : State) : Prop where
  /-- A NOP, or any command while BUSY. -/
  | nothing (ht : t = s)
  /-- DECODE accepted. -/
  | decode (hp : s.phase = .idle) (hv : v.toNat % 256 = 1) (ht : t = s.acceptDecode)
  /-- ENCODE accepted. -/
  | encode (hp : s.phase = .idle) (hv : v.toNat % 256 = 2) (ht : t = s.acceptEncode)
  /-- An illegal command reported. -/
  | illegal (o : Byte) (hp : s.phase = .idle) (hv : v.toNat % 256 = o.toNat) (ho : 3 ≤ o.toNat)
      (ht : t = s.raise .illegal (.illegalCmd o))

/-- All that a command write can do. -/
theorem command_next {s t : State} {v : U32} (h : exec (decodeCmd v) s = .next t) : Commanded s v t := by
  have hl : (v.extractLsb' 0 8).toNat = v.toNat % 256 := by rw [extract_toNat]; simp
  unfold decodeCmd at h
  dsimp only at h
  split_ifs at h with h1 h2 h3
  · rcases State.whenIdle_next h with ⟨-, ht⟩ | ⟨-, ht⟩ <;> exact .nothing ht
  · rcases State.whenIdle_next h with ⟨-, ht⟩ | ⟨hp, ht⟩
    · exact .nothing ht
    · exact .decode hp (by rw [← hl, h2]; decide) ht
  · rcases State.whenIdle_next h with ⟨-, ht⟩ | ⟨hp, ht⟩
    · exact .nothing ht
    · exact .encode hp (by rw [← hl, h3]; decide) ht
  · rcases State.whenIdle_next h with ⟨-, ht⟩ | ⟨hp, ht⟩
    · exact .nothing ht
    · refine .illegal _ hp hl.symm ?_ ht
      have e1 : (v.extractLsb' 0 8).toNat ≠ 0 := fun e => h1 (BitVec.eq_of_toNat_eq (by simpa using e))
      have e2 : (v.extractLsb' 0 8).toNat ≠ 1 := fun e => h2 (BitVec.eq_of_toNat_eq (by simpa using e))
      have e3 : (v.extractLsb' 0 8).toNat ≠ 2 := fun e => h3 (BitVec.eq_of_toNat_eq (by simpa using e))
      omega

/-- What a step at a name element did. -/
inductive NameMoved (s t : State) : Prop where
  /-- An error was entered. -/
  | raised (e : Err) (ht : t = s.raise .decode e)
  /-- The root label ended the name. -/
  | term (hp : s.name.p + 1 ≤ s.len)
      (ht : t = ({ s with name := { s.name with fin := some (s.name.fieldEnd 1) } }.returnName
        s.name.acc (s.name.fieldEnd 1)))
  /-- A label joined the name. -/
  | label (lab : Label) (hp : s.name.p + 1 + lab.length ≤ s.len)
      (hcap : within (enclen (s.name.acc ++ [lab])) s.params.nameCap = true)
      (ht : t = { s with name :=
        { s.name with acc := s.name.acc ++ [lab], p := s.name.p + 1 + lab.length } })
  /-- A pointer was followed. -/
  | pointer (off : Nat) (hp : s.name.p + 2 ≤ s.len) (ho : off < s.len) (hh : s.name.hops < s.params.ptrLimit)
      (ht : t = { s with name :=
        { s.name with fin := some (s.name.fieldEnd 2), hops := s.name.hops + 1, p := off } })

/-- An element step of a name continues it or enters an error. -/
theorem nameStep_next {s t : State} {r : Res NameRegs} (h : s.nameStep r = .next t) :
    (∃ n, r = .ok n ∧ t = { s with name := n }) ∨ ∃ e, t = s.raise .decode e := by
  rcases State.decodeStep_next h with ⟨n, hn, ht⟩ | ⟨e, -, ht⟩
  · exact .inl ⟨n, hn, ht⟩
  · exact .inr ⟨e, ht⟩

/-- A label step of the machine. -/
theorem labelMove_next {s t : State} {size : Nat} (h : s.nameStep (labelStep s.input s.name size) = .next t) :
    NameMoved s t := by
  rcases nameStep_next h with ⟨n, hn, ht⟩ | ⟨e, ht⟩
  · obtain ⟨lab, h1, h2, -, h4, h5⟩ := labelStep_eq_ok hn
    subst h2
    subst h5
    exact .label lab h1 h4 ht
  · exact .raised e ht

/-- A step that reads a tag and runs its element. -/
theorem element_next {s t : State} (h : s.elementTurn.result = .next t) : NameMoved s t := by
  unfold State.elementTurn at h
  split at h
  · next i hi =>
    obtain ⟨tag, hp, -, hc⟩ := fetchElement_eq_ok hi
    have hext : ∀ size, s.nameStep (extStep s.input s.name size) = .next t → NameMoved s t := by
      intro size h
      unfold extStep at h
      split at h
      · rcases nameStep_next h with ⟨n, hn, -⟩ | ⟨e, ht⟩
        · cases hn
        · exact .raised e ht
      · exact labelMove_next h
    rcases hc with hc | ⟨b1, -, hp1, -, rfl⟩
    · unfold decodeTagByte at hc
      split_ifs at hc <;> cases hc
      · exact .term hp (by cases h; rfl)
      · exact labelMove_next h
      · exact hext _ h
      · exact hext _ h
    · rcases nameStep_next h with ⟨n, hn, ht⟩ | ⟨e, ht⟩
      · obtain ⟨h1, h2, h3⟩ := pointerStep_eq_ok hn
        subst h3
        exact .pointer _ hp1 h1 h2 ht
      · exact .raised e ht
  · next e _ => exact .raised e (by simpa [Fetched.result] using h.symm)
  · cases h

/-- What a step at a record type did. -/
inductive RdataMoved (s : State) (t : State) : Prop where
  /-- An error was entered. -/
  | raised (e : Err) (ht : t = s.raise .decode e)
  /-- RD_CNAME began its name. -/
  | cname (ht : t = { s with
      recd := { s.recd with rtype := 0x0005#16 }
      name := NameRegs.start s.cur
      use := .cname
      ctl := .name })
  /-- A body was read and its record finished. -/
  | body (rt : U16) (rd : RData) (hl : s.cur + s.recd.rdlen.toNat ≤ s.len)
      (ht : t = s.finishRecord rt rd (s.cur + s.recd.rdlen.toNat))

/-- A body step of the machine. -/
theorem bodyRecord_next {s t : State} {rt : U16} {variant : Bytes → RData}
    (h : s.bodyRecord rt variant = .next t) : RdataMoved s t := by
  rcases State.decodeStep_next h with ⟨b, hb, ht⟩ | ⟨e, -, ht⟩
  · exact .body _ _ (readBody_eq_ok hb).1 ht
  · exact .raised e ht

/-- A step that runs a record type. -/
theorem rdata_next {s t : State} {v : U16} (h : exec (decodeRtype v) s = .next t) : RdataMoved s t := by
  unfold decodeRtype at h
  split_ifs at h
  · exact bodyRecord_next h
  · exact .cname (by simpa [exec, execRdCname] using h.symm)
  · exact bodyRecord_next h

/-- What a step of a running command did. -/
inductive EngineMoved (s t : State) : Prop where
  /-- DECODE entered an error. -/
  | decodeRaised (e : Err) (ht : t = s.raise .decode e)
  /-- ENCODE entered an error. -/
  | encodeRaised (e : Err) (ht : t = s.raise .encode e)
  /-- A name element. -/
  | name (hc : s.ctl = .name) (ht : NameMoved s t)
  /-- A record type. -/
  | rdata (hc : s.ctl = .rdata) (ht : RdataMoved s t)
  /-- The procedure moved on without data. -/
  | goOn (c : Ctl) (hc : c ≠ .name) (ht : t = { s with ctl := c })
  /-- A header field was read. -/
  | header (f : HeaderField) (v : U16) (hl : headerOffset f + 2 ≤ s.len)
      (ht : t = { s.setHeader f v with cur := headerOffset f + 2, ctl := afterHeader f })
  /-- A field of the record was read. -/
  | field (r : RecordRegs) (n : Nat) (c : Ctl) (hl : n ≤ s.len) (hc : c ≠ .name)
      (ht : t = { s with recd := r, cur := n, ctl := c })
  /-- A question was finished. -/
  | question (d : Message) (n : Nat) (hl : n ≤ s.len)
      (ht : t = { s with draft := d, cur := n, idx := s.idx + 1, ctl := .walk })
  /-- The section was left. -/
  | sectionLeft (c : Sect) (ht : t = { s with sect := c, idx := 0 })
  /-- A record began with its owner name. -/
  | owner (ht : t = { s with name := NameRegs.start s.cur, use := .owner, ctl := .name })
  /-- DECODE completed. -/
  | decoded (ht : t = s.completeDecode s.draft)
  /-- ENCODE completed. -/
  | encoded (hc : s.ctl = .encodeDone) (ht : t = s.completeEncode s.out)
  /-- Output was produced. -/
  | emitted (b : Bytes) (c : Sect) (x : Nat) (k : Ctl) (hl : s.opos + b.length ≤ s.params.obufCap) (hk : k ≠ .name)
      (ht : t = { s with out := s.out ++ b, opos := s.opos + b.length, sect := c, idx := x, ctl := k })

/-- Leaving a section. -/
theorem leaveSection_moved (s : State) {c : Ctl} (hc : c ≠ .name) : EngineMoved s (s.leaveSection c) := by
  unfold State.leaveSection
  split
  · exact .sectionLeft _ rfl
  · exact .goOn c hc rfl

/-- Reading a 16-bit field of the record. -/
theorem fieldStep_moved {s t : State} {set : RecordRegs → U16 → RecordRegs} {c : Ctl} (hc : c ≠ .name)
    (h : s.fieldStep set c = .next t) : EngineMoved s t := by
  rcases State.decodeStep_next h with ⟨v, hv, ht⟩ | ⟨e, -, ht⟩
  · exact .field _ _ c (rd16_eq_ok hv).1 hc ht
  · exact .decodeRaised e ht

/-- All that a step of a running command can do. -/
theorem engine_next {s t : State} (h : s.engine.result = .next t) : EngineMoved s t := by
  unfold State.engine at h
  split at h
  · simp only [Fetched.result, State.decodeStartStep] at h
    split_ifs at h
    · exact .decodeRaised _ (by simpa using h.symm)
    · exact .goOn (.header .id) (by decide) (by simpa using h.symm)
  · next f _ =>
    rcases State.decodeStep_next h with ⟨v, hv, ht⟩ | ⟨e, -, ht⟩
    · exact .header f v (rd16_eq_ok hv).1 ht
    · exact .decodeRaised e ht
  · simp only [Fetched.result, State.walkStep] at h
    split_ifs at h
    · exact .owner (by simpa using h.symm)
    · exact .decodeRaised _ (by simpa using h.symm)
    · cases h
      exact leaveSection_moved s (by decide)
  · next hc => exact .name hc (element_next h)
  · exact fieldStep_moved (set := fun r v => { r with rtype := v }) (by decide) h
  · rcases State.decodeStep_next h with ⟨v, hv, ht⟩ | ⟨e, -, ht⟩
    · exact .question _ _ (rd16_eq_ok hv).1 ht
    · exact .decodeRaised e ht
  · exact fieldStep_moved (set := fun r v => { r with rtype := v }) (by decide) h
  · exact fieldStep_moved (set := fun r v => { r with rclass := v }) (by decide) h
  · rcases State.decodeStep_next h with ⟨v, hv, ht⟩ | ⟨e, -, ht⟩
    · exact .field _ _ _ (rd32_eq_ok hv) (by decide) ht
    · exact .decodeRaised e ht
  · exact fieldStep_moved (set := fun r v => { r with rdlen := v }) (by decide) h
  · next hc => exact .rdata hc (rdata_next h)
  · exact .decoded (by simpa [Fetched.result] using h.symm)
  · simp only [Fetched.result, State.encodeStartStep, State.withMsg] at h
    split at h
    · cases h
    · rcases State.emit_next h with ⟨b, -, hb, ht⟩ | ⟨e, ht⟩
      · exact .emitted b _ _ _ hb (by decide) ht
      · exact .encodeRaised e ht
  · next hc =>
    simp only [Fetched.result, State.encodeRecordStep, State.withMsg] at h
    split at h
    · cases h
    · split at h
      · rcases State.emit_next h with ⟨b, -, hb, ht⟩ | ⟨e, ht⟩
        · exact .emitted b s.sect _ s.ctl hb (by simp [hc]) ht
        · exact .encodeRaised e ht
      · cases h
        exact leaveSection_moved s (by decide)
  · next hc => exact .encoded hc (by simpa [Fetched.result] using h.symm)

end Sys2Proof.Machine
end

