-- ==== Sys2Proof/Tests/Slice0.lean ====
section
/-! SUPPORT. The model's own tests: ill-formed terms, decoded words, single steps with the results of
spec/95_test_vectors.md, and a witness for the hypotheses of every statement that has some. -/

namespace Sys2Proof.Machine

-- ---------------------------------------------------------------- ill-formed terms

/-- A label of length 0 is NAME_TERM's word (spec/41_name_codec.md R153). -/
theorem test_label_of_length_zero_is_ill_formed : (Instr.nameLabel 0#6).wellFormed = false := by decide

/-- TYPE 1 and TYPE 5 are RD_A and RD_CNAME (spec/42_rdata_codec.md R183). -/
theorem test_opaque_type_1_and_5_are_ill_formed :
    (Instr.rdOpaque 1#16).wellFormed = false ∧ (Instr.rdOpaque 5#16).wellFormed = false := by decide

/-- Opcodes 0, 1 and 2 are legal commands (spec/45_host_commands.md R244). -/
theorem test_illegal_opcode_0_1_2_are_ill_formed :
    (Instr.cmdIllegal 0#24 0#8).wellFormed = false ∧ (Instr.cmdIllegal 0#24 1#8).wellFormed = false ∧
    (Instr.cmdIllegal 0#24 2#8).wellFormed = false := by decide

-- ---------------------------------------------------------------- decoded words

/-- A decoded coded object. -/
def decoded (c : Code) : Option Instr :=
  match decode c with
  | .ok i => some i
  | .error _ => none

/-- Row NAME_TERM, `00000000`. -/
theorem test_decode_name_term : decoded (.tag [0b00000000#8]) = some .nameTerm := by decide

/-- Row NAME_LABEL, `00LLLLLL`, the shortest and the longest label. -/
theorem test_decode_name_label :
    decoded (.tag [0b00000001#8]) = some (.nameLabel 1#6) ∧
    decoded (.tag [0b00111111#8]) = some (.nameLabel 63#6) := by decide

/-- Row NAME_EXT_01, `01LLLLLL`. -/
theorem test_decode_name_ext_01 :
    decoded (.tag [0b01000000#8]) = some (.nameExt01 0#6) ∧
    decoded (.tag [0b01111111#8]) = some (.nameExt01 63#6) := by decide

/-- Row NAME_EXT_10, `10LLLLLL`. -/
theorem test_decode_name_ext_10 :
    decoded (.tag [0b10000000#8]) = some (.nameExt10 0#6) ∧
    decoded (.tag [0b10111111#8]) = some (.nameExt10 63#6) := by decide

/-- Row NAME_PTR, `11oooooooooooooo`: C0 0C is offset 12 and FF FF is offset 0x3FFF
(spec/95_test_vectors.md L1.3, N17); without its second byte there is no instruction. -/
theorem test_decode_name_ptr :
    decoded (.tag [0b11000000#8, 0b00001100#8]) = some (.namePtr 12#14) ∧
    decoded (.tag [0xFF#8, 0xFF#8]) = some (.namePtr 0x3FFF#14) ∧
    decoded (.tag [0b11000000#8]) = none := by decide

/-- Rows RD_A, RD_CNAME and RD_OPAQUE by TYPE. -/
theorem test_decode_record_types :
    decoded (.rtype 0b0000000000000001#16) = some .rdA ∧
    decoded (.rtype 0b0000000000000101#16) = some .rdCname ∧
    decoded (.rtype 0b0000000000000000#16) = some (.rdOpaque 0#16) ∧
    decoded (.rtype 0b0000000000010000#16) = some (.rdOpaque 16#16) ∧
    decoded (.rtype 0xFFFF#16) = some (.rdOpaque 0xFFFF#16) := by decide

/-- Rows CMD_NOP, CMD_DECODE, CMD_ENCODE and CMD_ILLEGAL: bits 7:0 select. -/
theorem test_decode_commands :
    decoded (.cmd 0x00000000#32) = some (.cmdNop 0#24) ∧
    decoded (.cmd 0xABCDEF01#32) = some (.cmdDecode 0xABCDEF#24) ∧
    decoded (.cmd 0x00000102#32) = some (.cmdEncode 1#24) ∧
    decoded (.cmd 0x00000003#32) = some (.cmdIllegal 0#24 3#8) ∧
    decoded (.cmd 0x000000FF#32) = some (.cmdIllegal 0#24 0xFF#8) := by decide

-- ---------------------------------------------------------------- small states

/-- The next state of an answer, if it is one. -/
def nextState (r : Result) : Option State :=
  match r with
  | .next t => some t
  | .fault _ => none
  | .refused _ => none

/-- The fault of an answer, if it is one. -/
def faultOf (r : Result) : Option Fault :=
  match r with
  | .next _ => none
  | .fault f => some f
  | .refused _ => none

/-- What an answer reports: STATUS and ERR_POS of its next state. -/
def reportOf (r : Result) : Option (U32 × U16) := (nextState r).map fun t => (t.status, t.errPos)

/-- IBUF with these bytes from offset 12 on, after a header of zeros. -/
def bufferOf (bs : Bytes) : Memory := Memory.writeBytes [] 0 (List.replicate 12 0#8 ++ bs)

/-- An idle machine with these bytes after a header of zeros, and IN_LEN their number. -/
def idleWith (p : Params) (bs : Bytes) : State :=
  { State.resetWith p with ibuf := bufferOf bs, inLen := BitVec.ofNat 16 (12 + bs.length) }

/-- A running DECODE over these bytes, at `c`, in the question section, with CUR and P at 12. -/
def busyWith (p : Params) (bs : Bytes) (c : Ctl) : State :=
  { idleWith p bs with
    phase := .busy
    status := statusRunning
    len := 12 + bs.length
    cur := 12
    name := NameRegs.start 12
    qd := 1#16
    sect := .question
    ctl := c }

/-- A running DECODE at the name element at offset 12. -/
def atName (bs : Bytes) : State := busyWith Params.reference bs .name

/-- A running DECODE at the name element at offset 12, extended tags being lengths. -/
def atNameExt (bs : Bytes) : State := busyWith { Params.reference with extTagPolicy := .asLength } bs .name

/-- A running DECODE at the record data at offset 12 of an answer record. -/
def atRdata (rtype rdlen : U16) (bs : Bytes) : State :=
  { busyWith Params.reference bs .rdata with
    sect := .answer
    an := 1#16
    recd := { RecordRegs.initial with rtype := rtype, rclass := 1#16, ttl := 3600#32, rdlen := rdlen } }

/-- The same with RDATA_CAP 4. -/
def atSmallRdata (rtype rdlen : U16) (bs : Bytes) : State :=
  { atRdata rtype rdlen bs with params := { Params.reference with rdataCap := some 4 } }

/-- A host's 32-bit write of CMD. -/
def cmdWrite (v : U32) : HostEvent := .bus (.write 0x00#18 .w32 v)

-- ---------------------------------------------------------------- one step of each instruction

/-- N1: the root name is one byte. -/
theorem test_name_term_ends_the_root_name :
    (nextState (step (atName [0x00#8, 0x00#8, 0x01#8]))).map (fun t => (t.recd.name, t.cur)) = some ([], 13) := by
  decide

/-- L1.3: the name field ends at END = 27 where a pointer has set it, not behind the target's terminator. -/
theorem test_name_term_keeps_the_end_a_pointer_set :
    (nextState (step { atName [0x00#8] with name := { p := 12, fin := some 27, hops := 1, acc := [[0x66#8]] } })).map
      (fun t => (t.recd.name, t.cur)) = some ([[0x66#8]], 27) := by
  decide

/-- N2: `03 77 77 77` is the label "www". -/
theorem test_name_label_reads_www :
    (nextState (step (atName [0x03#8, 0x77#8, 0x77#8, 0x77#8, 0x00#8]))).map (fun t => (t.name.acc, t.name.p)) =
      some ([[0x77#8, 0x77#8, 0x77#8]], 16) := by
  decide

/-- N4: SLICE_TRUNC at 13, STATUS 0x00000316. -/
theorem test_name_label_truncated :
    reportOf (step (atName [0x03#8, 0x77#8, 0x77#8])) = some (0x00000316#32, 13#16) := by decide

/-- N6: EXT_TAG at 12, STATUS 0x00000716. -/
theorem test_name_ext_01_rejected : reportOf (step (atName [0x40#8])) = some (0x00000716#32, 12#16) := by decide

/-- N10: under AS_LENGTH `41 00` is a label of 65 bytes that passes LEN: SLICE_TRUNC at 13. -/
theorem test_name_ext_01_as_length : reportOf (step (atNameExt [0x41#8, 0x00#8])) = some (0x00000316#32, 13#16) := by
  decide

/-- N7: EXT_TAG at 12. -/
theorem test_name_ext_10_rejected :
    reportOf (step (atName [0x80#8, 0x00#8])) = some (0x00000716#32, 12#16) := by decide

/-- R154: under AS_LENGTH the tag 0x80 is a label of 128 bytes. -/
theorem test_name_ext_10_as_length :
    (nextState (exec (.nameExt10 0#6) (atNameExt (0x80#8 :: List.replicate 128 0x61#8)))).map
      (fun t => (t.name.acc, t.name.p)) = some ([List.replicate 128 0x61#8], 141) := by
  decide +kernel

/-- N19: a pointer to 18; END is 14, one pointer followed. -/
theorem test_name_ptr_jumps :
    (nextState (step (atName [0xC0#8, 0x12#8, 0x00#8, 0x01#8, 0x00#8, 0x01#8, 0x03#8]))).map
      (fun t => (t.name.p, t.name.fin, t.name.hops)) = some (18, some 14, 1) := by
  decide

/-- N12: the target 14 is LEN: PTR_RANGE at 12, STATUS 0x00000516. -/
theorem test_name_ptr_range : reportOf (step (atName [0xC0#8, 0x0E#8])) = some (0x00000516#32, 12#16) := by decide

/-- T1: `C0 A8 01 05` is A(192.168.1.5). -/
theorem test_rd_a_reads_an_address :
    (nextState (step (atRdata 1#16 4#16 [0xC0#8, 0xA8#8, 0x01#8, 0x05#8]))).map
      (fun t => (t.draft.answers.map ResourceRecord.rdata, t.cur)) =
      some ([RData.a [0xC0#8, 0xA8#8, 0x01#8, 0x05#8]], 16) := by
  decide

/-- T4: three of four bytes: SLICE_TRUNC at the first. -/
theorem test_rd_a_truncated :
    reportOf (step (atRdata 1#16 4#16 [0xC0#8, 0xA8#8, 0x01#8])) = some (0x00000316#32, 12#16) := by decide

/-- T8: the name of a CNAME begins at the record data, whatever RDLENGTH says. -/
theorem test_rd_cname_starts_a_name :
    (nextState (step (atRdata 5#16 0#16 [0x01#8, 0x61#8, 0x00#8]))).map (fun t => (t.name.p, t.name.hops, t.use, t.ctl)) =
      some (12, 0, NameUse.cname, Ctl.name) := by
  decide

/-- T6: TYPE 16 is Opaque. -/
theorem test_rd_opaque_reads_its_bytes :
    (nextState (step (atRdata 16#16 3#16 [0x02#8, 0x68#8, 0x69#8]))).map
      (fun t => t.draft.answers.map fun r => (r.rtype, r.rdata)) =
      some [(16#16, RData.opaq [0x02#8, 0x68#8, 0x69#8])] := by
  decide

/-- T5's rule for Opaque: five bytes with RDATA_CAP 4, STATUS 0x00000436. -/
theorem test_rd_opaque_over_capacity :
    reportOf (step (atSmallRdata 16#16 5#16 [1#8, 2#8, 3#8, 4#8, 5#8])) = some (0x00000436#32, 12#16) := by decide

/-- A NOP leaves the STATUS of an earlier error (spec/45_host_commands.md R241, example). -/
theorem test_nop_keeps_status :
    reportOf (step { State.reset with status := 0x0000FF46#32, errPos := 7#16, host := [cmdWrite 0x00000100#32] }) =
      some (0x0000FF46#32, 7#16) := by
  decide

/-- R242, acceptance: STATUS is BUSY alone and LEN is IN_LEN. -/
theorem test_decode_accepted :
    (nextState (step { State.reset with inLen := 21#16, host := [cmdWrite 0xFFFFFF01#32] })).map
      (fun t => (t.status, t.len, t.phase)) = some (0x00000001#32, 21, Phase.busy) := by
  decide

/-- M14: IN_LEN 600 with IBUF_CAP 512 is Capacity(IBUF, 0), STATUS 0x00000136, before any read. -/
theorem test_decode_checks_capacity_first :
    reportOf (step { busyWith Params.reference [] .decodeStart with len := 600 }) = some (0x00000136#32, 0#16) := by
  decide

/-- R243, acceptance. -/
theorem test_encode_accepted :
    (nextState (step { State.reset with host := [cmdWrite 0x00000002#32] })).map (fun t => (t.status, t.phase)) =
      some (0x00000001#32, Phase.busy) := by
  decide

/-- R243: ENCODE with MSG = ⊥ is the model fault UNINIT_READ. -/
theorem test_encode_without_a_message :
    faultOf (step { State.reset with phase := .busy, ctl := .encodeStart }) = some .uninitRead := by decide

/-- R244, example: CMD 0x000000FF gives STATUS 0x0000FF46. -/
theorem test_illegal_command :
    reportOf (step { State.reset with errPos := 9#16, host := [cmdWrite 0x000000FF#32] }) =
      some (0x0000FF46#32, 0#16) := by
  decide

/-- C1: a message with nothing in it encodes to its header (spec/95_test_vectors.md L2.6). -/
theorem test_encode_core_header_only :
    encCore .max255 { Message.blank with id := 0x1234#16, flags := 0xFFFF#16 } =
      .ok [0x12#8, 0x34#8, 0xFF#8, 0xFF#8, 0#8, 0#8, 0#8, 0#8, 0#8, 0#8, 0#8, 0#8] := by
  rfl

-- ---------------------------------------------------------------- witnesses: encoding

theorem test_witness_DecodeOfEncodeIsIdentity :
    (Instr.nameTerm).wellFormed = true ∧ (Instr.nameLabel 1#6).wellFormed = true ∧
    (Instr.nameLabel 63#6).wellFormed = true ∧ (Instr.nameExt01 0#6).wellFormed = true ∧
    (Instr.nameExt10 63#6).wellFormed = true ∧ (Instr.namePtr 0x3FFF#14).wellFormed = true ∧
    (Instr.rdA).wellFormed = true ∧ (Instr.rdCname).wellFormed = true ∧ (Instr.rdOpaque 0#16).wellFormed = true ∧
    (Instr.cmdNop 0xFFFFFF#24).wellFormed = true ∧ (Instr.cmdDecode 0#24).wellFormed = true ∧
    (Instr.cmdEncode 0#24).wellFormed = true ∧ (Instr.cmdIllegal 0#24 3#8).wellFormed = true ∧
    (Instr.cmdIllegal 0#24 0xFF#8).wellFormed = true := by decide

theorem test_witness_EncodeOfDecodeIsIdentity :
    decode (.tag [0xC0#8, 0x0C#8, 0xFF#8]) = .ok (.namePtr 12#14) ∧
    decode (.tag [0x03#8, 0x77#8]) = .ok (.nameLabel 3#6) := ⟨rfl, rfl⟩

theorem test_witness_TagByteSelectsElementClass :
    (0x00#8).toNat = 0 ∧ 1 ≤ (0x01#8).toNat ∧ (0x3F#8).toNat ≤ 63 ∧ 64 ≤ (0x40#8).toNat ∧ (0x7F#8).toNat ≤ 127 ∧
    128 ≤ (0x80#8).toNat ∧ (0xBF#8).toNat ≤ 191 ∧ 192 ≤ (0xC0#8).toNat ∧ 192 ≤ (0xFF#8).toNat := by decide

theorem test_witness_LowByteSelectsCommand :
    (0xFFFFFF00#32).toNat % 256 = 0 ∧ (0x00000101#32).toNat % 256 = 1 ∧ (0x00000002#32).toNat % 256 = 2 ∧
    3 ≤ (0x00000003#32).toNat % 256 ∧ 3 ≤ (0x000000FF#32).toNat % 256 := by decide

-- ---------------------------------------------------------------- witnesses: the step

theorem test_witness_StepRunsDecodedInstruction :
    ((atName [0xC0#8, 0x0C#8]).engineState = some (atName [0xC0#8, 0x0C#8]) ∧
      (atName [0xC0#8, 0x0C#8]).ctl = .name ∧
      (∀ k, k < 2 → (atName [0xC0#8, 0x0C#8]).ibuf.read (12 + k) = [0xC0#8, 0x0C#8][k]?) ∧
      (atName [0xC0#8, 0x0C#8]).name.p + 2 ≤ (atName [0xC0#8, 0x0C#8]).len ∧
      decoded (.tag [0xC0#8, 0x0C#8]) = some (.namePtr 12#14)) ∧
    ((atRdata 1#16 0#16 []).engineState = some (atRdata 1#16 0#16 []) ∧ (atRdata 1#16 0#16 []).ctl = .rdata ∧
      decoded (.rtype (atRdata 1#16 0#16 []).recd.rtype) = some .rdA) ∧
    ({ State.reset with host := [cmdWrite 1#32] }.host = .bus (.write 0x00#18 .w32 1#32) :: [] ∧
      decoded (.cmd 1#32) = some (.cmdDecode 0#24)) := by decide

theorem test_witness_IdleChangesNothing :
    State.reset.phase = .idle ∧ State.reset.host = [] ∧
    { State.reset with host := [.pass] }.host = .pass :: [] := by decide

theorem test_witness_ScannerReadsAreBoundsChecked :
    (bufferOf [1#8, 2#8, 3#8, 4#8]).holds 12 [1#8] ∧ (bufferOf [1#8, 2#8, 3#8, 4#8]).holds 12 [1#8, 2#8] ∧
    (bufferOf [1#8, 2#8, 3#8, 4#8]).holds 12 [1#8, 2#8, 3#8, 4#8] ∧ (bufferOf []).holds 12 [] ∧
    12 + 4 ≤ 16 ∧ 15 < 12 + 4 ∧ 12 < 12 + 1 ∧ 12 + 0 ≤ 12 := by
  unfold Memory.holds
  decide

theorem test_witness_UnwrittenByteInsideLenFaults :
    0 < 1 ∧ 1 < 2 ∧ 3 < 4 ∧ 12 + 4 ≤ 16 ∧ (bufferOf [1#8]).read (12 + 1) = none ∧
    (bufferOf [1#8]).read (13 + 0) = none ∧ (bufferOf [1#8, 2#8, 3#8]).read (12 + 3) = none := by decide

-- ---------------------------------------------------------------- witnesses: names

theorem test_witness_NameTermReturnsTheName :
    13 = (atName [0x00#8]).name.fin.getD ((atName [0x00#8]).name.p + 1) ∧ (atName [0x00#8]).use = .owner ∧
    { atName [0x00#8] with use := .cname }.use = .cname := by decide

theorem test_witness_NameLabelAppendsTheLabel :
    (atName [0x03#8, 0x77#8, 0x77#8]).len < (atName [0x03#8, 0x77#8, 0x77#8]).name.p + 1 + (3#6).toNat ∧
    ([0x77#8] : Label).length = (1#6).toNat ∧
    (atName [0x01#8, 0x77#8]).name.p + 1 + (1#6).toNat ≤ (atName [0x01#8, 0x77#8]).len ∧
    (∀ k, k < 1 → (atName [0x01#8, 0x77#8]).ibuf.read (12 + 1 + k) = [0x77#8][k]?) ∧
    (atName [0x01#8, 0x77#8]).params.nameCap = none ∧
    { Params.reference with nameCap := some 255 }.nameCap = some 255 ∧
    enclen ([List.replicate 127 0x61#8] ++ [List.replicate 125 0x61#8]) ≤ 255 ∧
    255 < enclen ([List.replicate 127 0x61#8] ++ [List.replicate 126 0x61#8]) := by decide +kernel

theorem test_witness_ExtendedTagsFollowThePolicy :
    Instr.nameExt01 0#6 = .nameExt01 0#6 ∧ 64 = 64 + (0#6).toNat ∧ 191 = 128 + (63#6).toNat ∧
    (atName [0x40#8]).params.extTagPolicy = .reject ∧ (atNameExt [0x40#8]).params.extTagPolicy = .asLength ∧
    (atNameExt [0x40#8]).len < (atNameExt [0x40#8]).name.p + 1 + 64 ∧
    (List.replicate 64 0x61#8 : Label).length = 64 ∧
    12 + 1 + 64 ≤ (atNameExt (0x40#8 :: List.replicate 64 0x61#8)).len ∧
    (∀ k, k < 64 → (atNameExt (0x40#8 :: List.replicate 64 0x61#8)).ibuf.read (12 + 1 + k) =
      (List.replicate 64 0x61#8)[k]?) := by decide +kernel

theorem test_witness_NamePointerJumpsOrFails :
    ((atName [0xC0#8]).engineState = some (atName [0xC0#8]) ∧ (atName [0xC0#8]).ctl = .name ∧
      (∀ k, k < 1 → (atName [0xC0#8]).ibuf.read (12 + k) = [0xC0#8][k]?) ∧ 192 ≤ (0xC0#8).toNat ∧
      (atName [0xC0#8]).len = (atName [0xC0#8]).name.p + 1) ∧
    (atName [0xC0#8, 0x0E#8]).len ≤ (14#14).toNat ∧ (13#14).toNat < (atName [0xC0#8, 0x0D#8]).len ∧
    { NameRegs.start 12 with hops := 127 }.hops = Params.reference.ptrLimit ∧
    (NameRegs.start 12).hops < Params.reference.ptrLimit := by decide

/-- The invariant at a name element that begins at LEN. -/
theorem test_inv_atName : (atName []).Inv where
  paramsLegal := by decide
  ibufWf := by decide
  ibufInside := by decide
  obufWf := by decide
  obufInside := by decide
  status := by decide
  busy := by decide
  outLen := by decide
  lenBound := by decide
  curBound := by decide
  segmentBound := by decide
  endBound := by intro _ q h; cases h
  hopsBound := by decide
  outputCount := by decide
  outputFits := by decide

theorem test_witness_TagFetchAtLenIsUnterminated :
    (atName []).engineState = some (atName []) ∧ (atName []).ctl = .name ∧
    (atName []).len ≤ (atName []).name.p ∧ (atName []).Inv :=
  ⟨by decide, by decide, by decide, test_inv_atName⟩

theorem test_witness_NameElementFrame :
    (nextState (exec .nameTerm (atName [0x00#8]))).isSome ∧
    (nextState (exec (.nameLabel 1#6) (atName [0x01#8, 0x77#8]))).isSome ∧
    (nextState (exec (.nameExt01 0#6) (atName [0x40#8]))).isSome ∧
    (nextState (exec (.nameExt10 0#6) (atName [0x80#8]))).isSome ∧
    (nextState (exec (.namePtr 12#14) (atName [0xC0#8, 0x0C#8]))).isSome := by decide

-- ---------------------------------------------------------------- witnesses: record data

theorem test_witness_RawRecordDataIsCopied :
    (atRdata 1#16 4#16 [1#8, 2#8, 3#8]).len <
      (atRdata 1#16 4#16 [1#8, 2#8, 3#8]).cur + (atRdata 1#16 4#16 [1#8, 2#8, 3#8]).recd.rdlen.toNat ∧
    ([1#8, 2#8, 3#8, 4#8] : Bytes).length = (atSmallRdata 16#16 4#16 [1#8, 2#8, 3#8, 4#8]).recd.rdlen.toNat ∧
    12 + 4 ≤ (atSmallRdata 16#16 4#16 [1#8, 2#8, 3#8, 4#8]).len ∧
    (∀ k, k < 4 → (atSmallRdata 16#16 4#16 [1#8, 2#8, 3#8, 4#8]).ibuf.read (12 + k) = [1#8, 2#8, 3#8, 4#8][k]?) ∧
    (atSmallRdata 16#16 4#16 [1#8]).params.rdataCap = some 4 ∧
    4 < (atSmallRdata 16#16 5#16 [1#8]).recd.rdlen.toNat := by decide

/-- The answer of a procedure is an error. -/
def procErr {α : Type} (r : Proc α) : Option Err :=
  match r with
  | some (.err e) => some e
  | _ => none

/-- The answer of a procedure is a value. -/
def procOk {α : Type} (r : Proc α) : Option α :=
  match r with
  | some (.ok a) => some a
  | _ => none

/-- The answer of a procedure is a model fault. -/
def procFault {α : Type} (r : Proc α) : Option Fault :=
  match r with
  | some (.fault f) => some f
  | _ => none

theorem test_witness_CnameRecordRunsToItsName :
    (atRdata 5#16 0#16 [0x01#8, 0x61#8, 0x00#8]).phase = .busy ∧
    (atRdata 5#16 0#16 [0x01#8, 0x61#8, 0x00#8]).host = [] ∧
    procOk (decName (atRdata 5#16 0#16 [0x01#8, 0x61#8, 0x00#8]).input 12) = some ([[0x61#8]], 15) ∧
    procErr (decName (atRdata 5#16 0#16 []).input 12) = some (.malformed .nameUnterm 12) ∧
    { atRdata 5#16 0#16 [] with len := 20 }.phase = .busy ∧ { atRdata 5#16 0#16 [] with len := 20 }.host = [] ∧
    procFault (decName { atRdata 5#16 0#16 [] with len := 20 }.input 12) = some .uninitRead := by decide +kernel

theorem test_witness_RecordDataFrame :
    (nextState (exec .rdA (atRdata 1#16 1#16 [1#8]))).isSome ∧
    (nextState (exec .rdCname (atRdata 5#16 1#16 [0#8]))).isSome ∧
    (nextState (exec (.rdOpaque 16#16) (atRdata 16#16 1#16 []))).isSome := by decide

-- ---------------------------------------------------------------- witnesses: commands and errors

theorem test_witness_NopChangesNothing :
    (0xABCDEF00#32).toNat % 256 = 0 ∧
    { State.reset with host := [cmdWrite 0xABCDEF00#32] }.host = .bus (.write 0x00#18 .w32 0xABCDEF00#32) :: [] := by
  decide

theorem test_witness_CommandWhileBusyIsIgnored :
    { atName [] with host := [cmdWrite 1#32] }.phase = .busy ∧
    { atName [] with host := [cmdWrite 1#32] }.host = .bus (.write 0x00#18 .w32 1#32) :: [] := by decide

/-- The hypotheses of DecodeIsAccepted, EncodeIsAccepted and IllegalCommandReportsItsOpcode. -/
theorem test_witness_IdleCommands :
    State.reset.phase = .idle ∧ { State.reset with host := [cmdWrite 0xFF#32] }.phase = .idle ∧
    { State.reset with host := [cmdWrite 0xFF#32] }.host = .bus (.write 0x00#18 .w32 0xFF#32) :: [] ∧
    3 ≤ (0xFF#32).toNat % 256 ∧ 3 ≤ (0x00000103#32).toNat % 256 := by decide

theorem test_witness_CommandFrame :
    (nextState (exec (.cmdNop 0#24) State.reset)).isSome ∧ (nextState (exec (.cmdDecode 0#24) State.reset)).isSome ∧
    (nextState (exec (.cmdEncode 0#24) State.reset)).isSome ∧
    (nextState (exec (.cmdIllegal 0#24 3#8) State.reset)).isSome ∧
    (nextState (exec (.cmdDecode 0#24) (atName []))).isSome := by decide

/-- A label of 256 bytes in a question. -/
def longLabel : Message := { Message.blank with questions := [{ name := [List.replicate 256 0x61#8], qtype := 1#16, qclass := 1#16 }] }

theorem test_witness_ErrorsFitTheirCommand :
    procErr (decodeResult { ibuf := [], len := 0, params := Params.reference }) = some (.malformed .hdrTrunc 0) ∧
    procErr (decodeResult { ibuf := [], len := 600, params := Params.reference }) = some (.capacity .ibuf 0) ∧
    encodeResult Params.reference longLabel = .error (.invalidName .labelTooLong 12) :=
  ⟨by decide +kernel, by decide +kernel, by decide +kernel⟩

theorem test_witness_InputLongerThanIbufIsRefusedFirst :
    { busyWith Params.reference [] .decodeStart with len := 513 }.engineState =
      some { busyWith Params.reference [] .decodeStart with len := 513 } ∧
    (busyWith Params.reference [] .decodeStart).ctl = .decodeStart ∧ Params.reference.ibufCap < 513 := by decide

-- ---------------------------------------------------------------- witnesses: decoding

/-- L1.1's message (spec/95_test_vectors.md). -/
def query : Bytes :=
  [0x00#8, 0x01#8, 0x01#8, 0x00#8, 0x00#8, 0x01#8, 0x00#8, 0x00#8, 0x00#8, 0x00#8, 0x00#8, 0x00#8,
   0x03#8, 0x77#8, 0x77#8, 0x77#8, 0x00#8, 0x00#8, 0x01#8, 0x00#8, 0x01#8]

/-- The message L1.1 decodes to. -/
def queryMessage : Message :=
  { Message.blank with
    id := 1#16
    flags := 0x0100#16
    questions := [{ name := [[0x77#8, 0x77#8, 0x77#8]], qtype := 1#16, qclass := 1#16 }] }

/-- IBUF with L1.1's message. -/
def queryInput : Input where
  ibuf := Memory.writeBytes [] 0 query
  len := 21
  params := Params.reference

/-- L1.1: the query decodes to its message, CUR ends at 21 = LEN. -/
theorem test_query_decodes : procOk (decodeMsg queryInput) = some (queryMessage, 21) := by decide +kernel

/-- L1.1 encoded back gives the same 21 bytes. -/
theorem test_query_encodes : encodeResult Params.reference queryMessage = .ok query := by rfl

theorem test_witness_NameDecodeTerminates : 12 ≤ queryInput.len ∧ 21 ≤ queryInput.len := by decide

theorem test_witness_NameDecodeAdvancesInsideLen :
    procOk (decName queryInput 12) = some ([[0x77#8, 0x77#8, 0x77#8]], 17) := by decide +kernel

theorem test_witness_SpelledNameDecodesToItself :
    plainName [[0x77#8, 0x77#8, 0x77#8]] = true ∧
    encName .max255 [[0x77#8, 0x77#8, 0x77#8]] 0 = .ok [0x03#8, 0x77#8, 0x77#8, 0x77#8, 0x00#8] ∧
    (∀ k, k < 5 → queryInput.ibuf.read (12 + k) = [0x03#8, 0x77#8, 0x77#8, 0x77#8, 0x00#8][k]?) ∧
    12 + 5 ≤ queryInput.len ∧ queryInput.params.nameCap = none :=
  ⟨by decide, rfl, by decide +kernel, by decide, rfl⟩

/-- N19's shape: a label and a pointer to a name behind it. -/
def pointerInput : Input where
  ibuf := bufferOf [0x01#8, 0x61#8, 0xC0#8, 0x10#8, 0x01#8, 0x62#8, 0x00#8]
  len := 19
  params := Params.reference

theorem test_witness_PointerSplicesItsTarget :
    plainName [[0x61#8]] = true ∧ encName .max255 [[0x61#8]] 0 = .ok ([0x01#8, 0x61#8] ++ [0x00#8]) ∧
    (∀ k, k < 4 → pointerInput.ibuf.read (12 + k) = ([0x01#8, 0x61#8] ++ be16 (0b11#2 ++ 16#14))[k]?) ∧
    procOk (decName pointerInput 12) = some ([[0x61#8], [0x62#8]], 16) :=
  ⟨by decide, rfl, by decide +kernel, by decide +kernel⟩

theorem test_witness_SelfPointerHitsThePointerLimit :
    (bufferOf [0xC0#8, 0x0C#8]).holds (12#14).toNat (be16 (0b11#2 ++ 12#14)) ∧ (12#14).toNat + 2 ≤ 14 := by
  unfold Memory.holds
  decide

theorem test_witness_DecodeDependsOnlyOnBytesBelowLen :
    sameBelowLen queryInput { queryInput with ibuf := Memory.writeBytes [] 0 (query ++ [0xDE#8, 0xAD#8]) } := by
  refine ⟨rfl, rfl, ?_⟩
  show ∀ a, a < 21 → _
  decide +kernel

/-- The hypotheses of DecodedMessageIsWellShaped, DecodedMessageFitsTheStore and TruncatedPrefixIsMalformed. -/
theorem test_witness_DecodedMessages :
    procOk (decodeMsg queryInput) = some (queryMessage, queryInput.len) ∧
    queryInput.params.extTagPolicy = .reject ∧ queryInput.params.legal = true ∧ 20 < queryInput.len ∧
    0 < queryInput.len :=
  ⟨test_query_decodes, by decide, by decide, by decide, by decide⟩

theorem test_witness_ShortHeaderIsTruncated :
    (0 < 12 ∧ Memory.written [] 0 0) ∧ (11 < 12 ∧ Memory.written (bufferOf []) 0 11) := by
  unfold Memory.written
  decide

/-- A record's first 10 bytes behind a root name at offset 12. -/
def recordInput (len : Nat) : Input where
  ibuf := bufferOf (List.replicate 11 0x00#8)
  len := len
  params := Params.reference

/-- M7 to M11's shapes: the name at 12 is the root and ends at 13, its fields at 13, 15, 17 and 21; and N3's error. -/
theorem test_witness_TruncatedFieldsAreAtTheirOffsets :
    procErr (decName (recordInput 12) 12) = some (.malformed .nameUnterm 12) ∧
    procOk (decName (recordInput 14) 12) = some ([], 13) ∧ (recordInput 14).len < 13 + 2 ∧
    procOk (decName (recordInput 15) 12) = some ([], 13) ∧ 13 + 2 ≤ 15 ∧ 15 < 13 + 4 ∧
    procOk (decName (recordInput 20) 12) = some ([], 13) ∧ 13 + 4 ≤ 20 ∧ 20 < 13 + 8 ∧
    procOk (decName (recordInput 22) 12) = some ([], 13) ∧ 13 + 8 ≤ 22 ∧ 22 < 13 + 10 ∧
    (∀ k, k < 8 → ((recordInput 22).ibuf.read (13 + k)).isSome = true) := by decide +kernel

/-- M10: TTL passes LEN, FIELD_TRUNC at 17. -/
theorem test_ttl_truncated :
    procErr (decRecord (recordInput 20) 12) = some (.malformed .fieldTrunc 17) := by decide +kernel

/-- M13's parameters: the second record of a section with REC_CAP 1. -/
theorem test_witness_SectionWalkerChecksCapacityFirst :
    { Params.reference with recCap := some 1 }.recCap = some 1 ∧ 1 ≤ 1 ∧ 0 < 1 ∧
    procErr (decQuestion (recordInput 14) 12) = some (.malformed .fieldTrunc 13) ∧
    procOk (decQuestion queryInput 12) = some (⟨[[0x77#8, 0x77#8, 0x77#8]], 1#16, 1#16⟩, 21) ∧
    procOk (decSection queryInput (decQuestion queryInput) 0 1 21) = some ([], 21) ∧
    procErr (decSection queryInput (decQuestion queryInput) 1 1 21) = some (.malformed .nameUnterm 21) := by
  decide +kernel

/-- A walker at the record that REC_CAP does not allow. -/
def atWalkFull : State :=
  { busyWith { Params.reference with recCap := some 1 } [] .walk with qd := 2#16, idx := 1 }

theorem test_witness_WalkerErrorsAreRaisedAtCur :
    ((busyWith Params.reference [0#8] .qtype).engineState = some (busyWith Params.reference [0#8] .qtype) ∧
      (busyWith Params.reference [0#8] .qtype).len < (busyWith Params.reference [0#8] .qtype).cur + 2) ∧
    ((busyWith Params.reference [0#8, 0#8, 0#8] .ttl).engineState =
        some (busyWith Params.reference [0#8, 0#8, 0#8] .ttl) ∧
      (busyWith Params.reference [0#8, 0#8, 0#8] .ttl).len < (busyWith Params.reference [0#8, 0#8, 0#8] .ttl).cur + 4) ∧
    (atWalkFull.engineState = some atWalkFull ∧ atWalkFull.ctl = .walk ∧ atWalkFull.idx < atWalkFull.sectCount ∧
      atWalkFull.params.recCap = some 1 ∧ 1 ≤ atWalkFull.idx) := by decide

/-- M13: Capacity(REC) at CUR, STATUS 0x00000336. -/
theorem test_record_capacity : reportOf (step atWalkFull) = some (0x00000336#32, 12#16) := by decide

-- ---------------------------------------------------------------- witnesses: encoding messages

theorem test_witness_RoundTripOfWellFormedMessages :
    wellFormedMessage Params.reference queryMessage = true ∧ query.length ≤ Params.reference.obufCap ∧
    query.length ≤ Params.reference.ibufCap ∧ queryInput.ibuf.holds 0 query := by
  unfold Memory.holds
  decide +kernel

/-- A message that encodes, and a list that is one record too long; 65535 records are not. -/
theorem test_witness_EncodedCountsAreListLengths :
    encCore .max255 queryMessage = .ok query ∧
    65535 < (List.replicate 65536 queryMessage.questions).length ∧
    (List.replicate 65535 queryMessage.questions).length ≤ 65535 :=
  ⟨by rfl, by rw [List.length_replicate]; decide, by rw [List.length_replicate]⟩

theorem test_witness_NameEncodeChecksLabelLengths :
    (∀ l ∈ ([List.replicate 63 0x61#8] : DomainName), l.length ≤ 63) ∧ 63 < (List.replicate 64 0x61#8).length ∧
    (∀ l ∈ ([List.replicate 255 0x61#8] : DomainName), l.length ≤ 255) ∧ 255 < (List.replicate 256 0x61#8).length := by
  decide +kernel

theorem test_witness_EncodedRdlengthIsDerived :
    encName .max255 [] 12 = .ok [0#8] ∧ encRdata .max255 (.a [1#8]) (12 + 1 + 10) = .ok [1#8] ∧
    ([1#8] : Bytes).length ≤ 65535 ∧ 65535 < (List.replicate 65536 (0#8)).length :=
  ⟨rfl, rfl, by decide, by rw [List.length_replicate]; decide⟩

/-- The machine about to DECODE L1.1's message. -/
def queryIdle : State := { State.reset with ibuf := queryInput.ibuf, inLen := 21#16 }

/-- What the DECODE command of a state has to give. -/
def decodeOf (s : State) : Proc (Message × Nat) :=
  decodeResult { ibuf := s.ibuf, len := s.inLen.toNat, params := s.params }

/-- Its three cases: an error (M1, no message at all), a message (L1.1), a model fault (IN_LEN over unwritten bytes). -/
theorem test_witness_DecodeCommandRunsToItsResult :
    (State.reset.phase = .idle ∧ State.reset.host = [] ∧
      procErr (decodeOf State.reset) = some (.malformed .hdrTrunc 0)) ∧
    (queryIdle.phase = .idle ∧ queryIdle.host = [] ∧ procOk (decodeOf queryIdle) = some (queryMessage, 21)) ∧
    ({ State.reset with inLen := 12#16 }.phase = .idle ∧ { State.reset with inLen := 12#16 }.host = [] ∧
      procFault (decodeOf { State.reset with inLen := 12#16 }) = some .uninitRead) := by decide +kernel

/-- MSG with no value, a message that is encoded, one that is not; and the four rows of
spec/44_message_encoder.md R226's table, at the capacities where they meet. -/
theorem test_witness_EncodeCommandRunsToItsResult :
    (State.reset.phase = .idle ∧ State.reset.host = [] ∧ State.reset.msg = none) ∧
    ({ State.reset with msg := some queryMessage }.phase = .idle ∧
      { State.reset with msg := some queryMessage }.host = []) ∧
    encodeResult Params.reference queryMessage = .ok query ∧
    encodeResult Params.reference longLabel = .error (.invalidName .labelTooLong 12) ∧
    encCore .max255 queryMessage = .ok query ∧ query.length ≤ 21 ∧ 20 < query.length ∧
    encCore .max255 longLabel = .error (.invalidName .labelTooLong 12) ∧
    errPosition (.invalidName .labelTooLong 12) ≤ 12 ∧ 11 < errPosition (.invalidName .labelTooLong 12) := by
  decide +kernel

-- ---------------------------------------------------------------- witnesses: whole-machine rules

theorem test_witness_ResetMeetsInvariant :
    Params.reference.legal = true ∧
    { Params.reference with ibufCap := 12, obufCap := 65535, nameCap := some 255, recCap := some 1, rdataCap := some 4 }.legal =
      true := by decide

theorem test_witness_StepKeepsInvariant : (atName []).Inv ∧ (nextState (step (atName []))).isSome :=
  ⟨test_inv_atName, by decide⟩

theorem test_witness_ResetEventGivesTheResetState :
    { atName [] with host := [.reset] }.host = .reset :: [] ∧ { State.reset with host := [.reset] }.host = .reset :: [] := by
  decide

theorem test_witness_InternalStepsAreInvisible :
    (atName [0x01#8, 0x61#8]).engineState = some (atName [0x01#8, 0x61#8]) ∧
    (nextState (step (atName [0x01#8, 0x61#8]))).map State.phase = some .busy ∧
    (nextState (step (atName [0x01#8]))).map State.phase = some .idle := by decide

theorem test_witness_OnlyTheHostWritesIbuf :
    (nextState (step { State.reset with host := [.bus (.write 0x10000#18 .w8 7#32)] })).map State.ibuf =
      some [(0, 7#8)] ∧
    (nextState (step { idleWith Params.reference [] with host := [.reset] })).map State.ibuf = some [] := by decide

theorem test_witness_StatusChangesOnlyAtCommandsAndReset :
    (nextState (step { State.reset with host := [cmdWrite 1#32] })).map State.status = some 1#32 ∧
    (nextState (step { State.reset with status := 2#32, host := [.reset] })).map State.status = some 0#32 ∧
    (nextState (step (atName []))).map State.status = some 0x416#32 := by decide

theorem test_witness_ParametersNeverChange : (nextState (step State.reset)).isSome := by decide

/-- A host's 32-bit read of a register. -/
def regRead (addr : BitVec 18) : HostEvent := .bus (.read addr .w32)

/-- What the host has seen after one step. -/
def seenAfter (s : State) : Option (List Seen) := (nextState (step s)).map State.seen

/-- PARAM0 reads PTR_LIMIT, IBUF_CAP_R the capacity, CMD and unlisted registers 0 (spec/10_state.md R31 to R41). -/
theorem test_register_reads :
    seenAfter { State.reset with host := [regRead 0x14#18] } = some [.word 127#32] ∧
    seenAfter { State.reset with host := [regRead 0x1C#18] } = some [.word 512#32] ∧
    seenAfter { State.reset with host := [regRead 0x00#18] } = some [.word 0#32] ∧
    seenAfter { State.reset with host := [regRead 0xFC#18] } = some [.word 0#32] := by decide

theorem test_witness_RegisterReadsReturnTheirValues :
    { State.reset with host := [regRead 0x0C#18] }.host = .bus (.read 0x0C#18 .w32) :: [] ∧
    (0x0C#18).toNat % 4 = 0 ∧ (0x0C#18).toNat < 0x100 ∧ State.reset.phase = .idle ∧
    (0xFC#18).toNat % 4 = 0 ∧ (0xFC#18).toNat < 0x100 ∧ (0x00#18).toNat % 4 = 0 := by decide

theorem test_witness_RegisterWritesOnlyReachInLen :
    { State.reset with host := [.bus (.write 0x08#18 .w32 0x10015#32)] }.host =
      .bus (.write 0x08#18 .w32 0x10015#32) :: [] ∧
    (0x04#18).toNat % 4 = 0 ∧ (0xFC#18).toNat < 0x100 ∧ (0xFC#18).toNat ≠ 0 ∧ (0x04#18).toNat ≠ 0 := by decide

theorem test_witness_ByteWritesReachOnlyIbuf :
    { State.reset with host := [.bus (.write 0x101FF#18 .w8 7#32)] }.host = .bus (.write 0x101FF#18 .w8 7#32) :: [] ∧
    State.reset.phase = .idle ∧ 0x100 ≤ (0x100#18).toNat ∧
    (0x101FF#18).toNat = 0x10000 + 511 ∧ 511 < Params.reference.ibufCap ∧
    ¬ ((0x20000#18).toNat = 0x10000 + 65535) := by decide

theorem test_witness_ByteReadsReturnBufferBytes :
    { State.reset with host := [.bus (.read 0x10000#18 .w8)] }.host = .bus (.read 0x10000#18 .w8) :: [] ∧
    State.reset.phase = .idle ∧ 0x100 ≤ (0x10000#18).toNat ∧ State.reset.ibuf.read 0 = none ∧
    (idleWith Params.reference []).ibuf.read 11 = some 0#8 ∧ (0x1FFFF#18).toNat < 0x20000 ∧
    (0x2FFFF#18).toNat < 0x30000 := by decide

theorem test_witness_HostAccessesWhileBusy :
    (atName []).phase = .busy ∧ 0x10000 ≤ (0x101FF#18).toNat ∧ (0x101FF#18).toNat < 0x10000 + Params.reference.ibufCap ∧
    0x20000 ≤ (0x201FF#18).toNat ∧ (0x201FF#18).toNat < 0x20000 + Params.reference.obufCap ∧
    { atName [] with host := [.msgRead] }.host = .msgRead :: [] ∧ (atName []).Inv :=
  ⟨by decide, by decide, by decide, by decide, by decide, by decide, test_inv_atName⟩

theorem test_witness_MessagePortReadsAndWritesWhole :
    State.reset.phase = .idle ∧ State.reset.msg = none ∧
    { State.reset with host := [.msgWrite queryMessage] }.host = .msgWrite queryMessage :: [] ∧
    messageFits Params.reference queryMessage = true ∧
    messageFits { Params.reference with recCap := some 1 }
      { queryMessage with questions := queryMessage.questions ++ queryMessage.questions } = false := by decide

theorem test_witness_UndefinedAccessesAreRefused :
    ((0x04#18).toNat < 0x100 ∧ Width.w8 ≠ .w32) ∧ ((0x06#18).toNat < 0x100 ∧ (0x06#18).toNat % 4 ≠ 0) ∧
    (0x10000 ≤ (0x10000#18).toNat ∧ (0x2FFFF#18).toNat < 0x30000 ∧ Width.w32 ≠ .w8) := by decide

end Sys2Proof.Machine
end

section
/-! PROOF. What a DECODE procedure that gives a value did, one lemma per procedure, and from them that a decoded
message fits the capacities of the message store. -/

namespace Sys2Proof.Machine

/-- A sequence of procedures gives a value exactly if both do. -/
theorem procThen_eq_ok {α β : Type} {r : Proc α} {k : α → Proc β} {b : β} :
    procThen r k = some (.ok b) ↔ ∃ a, r = some (.ok a) ∧ k a = some (.ok b) := by
  constructor
  · intro h
    match r, h with
    | some (.ok a), h => exact ⟨a, rfl, h⟩
  · rintro ⟨a, rfl, h⟩
    exact h

/-- A read followed by a procedure gives a value exactly if both do. -/
theorem once_eq_ok {α β : Type} {r : Res α} {k : α → Proc β} {b : β} :
    once r k = some (.ok b) ↔ ∃ a, r = .ok a ∧ k a = some (.ok b) := by
  simp [once, procThen_eq_ok]

/-- An element step of DEC_NAME that goes on with the name, by the class of the tag at P
(spec/41_name_codec.md R153 to R155). -/
inductive NameElement (e : Input) (n n' : NameRegs) : Prop where
  | label (t : Byte) (ht : t ≠ 0x00#8) (hclass : t.extractLsb' 6 2 = 0b00#2) (h : labelStep e n t.toNat = .ok n')
  | ext (t : Byte) (hclass : t.extractLsb' 6 2 ≠ 0b00#2) (hptr : t.extractLsb' 6 2 ≠ 0b11#2)
      (h : extStep e n t.toNat = .ok n')
  | pointer (off : Nat) (h : pointerStep e n off = .ok n')

/-- A turn of DEC_NAME's loop that leads to a name ends it, or is an element step after which the loop leads
to it. -/
theorem decNameLoop_succ_eq_ok {e : Input} {fuel : Nat} {n : NameRegs} {r : DomainName × Nat}
    (h : decNameLoop e (fuel + 1) n = some (.ok r)) :
    r = (n.acc, n.fieldEnd 1) ∨ ∃ n', NameElement e n n' ∧ decNameLoop e fuel n' = some (.ok r) := by
  obtain ⟨t, -, h⟩ := once_eq_ok.mp h
  split_ifs at h with h0 hptr hlab
  · exact .inl (by simpa using h.symm)
  · obtain ⟨b1, -, h⟩ := once_eq_ok.mp h
    obtain ⟨n', hn, h⟩ := once_eq_ok.mp h
    exact .inr ⟨n', .pointer _ hn, h⟩
  · obtain ⟨n', hn, h⟩ := once_eq_ok.mp h
    exact .inr ⟨n', .label t h0 hlab hn, h⟩
  · obtain ⟨n', hn, h⟩ := once_eq_ok.mp h
    exact .inr ⟨n', .ext t hlab hptr hn, h⟩

/-- What every element step keeps holds of the registers with which DEC_NAME's loop ends. -/
theorem decNameLoop_invariant {e : Input} {P : NameRegs → Prop} (keeps : ∀ n n', NameElement e n n' → P n → P n')
    {fuel : Nat} {n : NameRegs} {r : DomainName × Nat} (hn : P n) (h : decNameLoop e fuel n = some (.ok r)) :
    ∃ m, P m ∧ r = (m.acc, m.fieldEnd 1) := by
  induction fuel generalizing n with
  | zero => cases h
  | succ fuel ih =>
    rcases decNameLoop_succ_eq_ok h with hr | ⟨n', hstep, h⟩
    · exact ⟨n, hn, hr⟩
    · exact ih (keeps n n' hstep hn) h

/-- An element step keeps the name read so far within NAME_CAP: a label is checked, a pointer appends nothing. -/
theorem NameElement.keeps_nameCap {e : Input} {n n' : NameRegs} (h : NameElement e n n')
    (hn : within (enclen n.acc) e.params.nameCap = true) : within (enclen n'.acc) e.params.nameCap = true := by
  have label {size : Nat} (h : labelStep e n size = .ok n') : within (enclen n'.acc) e.params.nameCap = true := by
    obtain ⟨lab, -, -, -, hcap, rfl⟩ := labelStep_eq_ok h
    exact hcap
  cases h with
  | label t _ _ h => exact label h
  | ext t _ _ h => exact label (extStep_eq_ok h).2
  | pointer off h =>
    obtain ⟨-, -, rfl⟩ := pointerStep_eq_ok h
    exact hn

/-- A legal NAME_CAP holds the root name, whose length DEC_NAME never checks (spec/00_scope.md R10). -/
theorem rootName_fits_of_legal {p : Params} (h : p.legal = true) : within (enclen []) p.nameCap = true := by
  have hcap : capWithin 255 none p.nameCap = true := by
    simp only [Params.legal, Bool.and_eq_true] at h
    obtain ⟨⟨⟨-, hname⟩, -⟩, -⟩ := h
    exact hname
  refine (within_iff _ _).mpr fun c hc => ?_
  have : 255 ≤ c := by simpa [hc, capWithin] using hcap
  exact Nat.le_trans (by decide) this

/-- A decoded name is within NAME_CAP. -/
theorem decName_fits {e : Input} (hp : e.params.legal = true) {p q : Nat} {n : DomainName}
    (h : decName e p = some (.ok (n, q))) : within (enclen n) e.params.nameCap = true := by
  obtain ⟨m, hm, hr⟩ := decNameLoop_invariant (P := fun m => within (enclen m.acc) e.params.nameCap = true)
    (fun _ _ hstep => hstep.keeps_nameCap) (rootName_fits_of_legal hp) h
  cases hr
  exact hm

/-- What DEC_RDATA that gives record data did, by the record's TYPE. -/
theorem decRdata_eq_ok {e : Input} {rtype : U16} {rdlen p q : Nat} {d : RData}
    (h : decRdata e rtype rdlen p = some (.ok (d, q))) :
    (rtype = 0x0005#16 ∧ ∃ n, decName e p = some (.ok (n, q)) ∧ d = .cname n) ∨
    (rtype = 0x0001#16 ∧ ∃ b, readBody e p rdlen = .ok b ∧ d = .a b ∧ q = p + rdlen) ∨
    (rtype ≠ 0x0005#16 ∧ rtype ≠ 0x0001#16 ∧ ∃ b, readBody e p rdlen = .ok b ∧ d = .opaq b ∧ q = p + rdlen) := by
  unfold decRdata at h
  split_ifs at h with h5 h1
  · obtain ⟨⟨n, q'⟩, hn, h⟩ := procThen_eq_ok.mp h
    cases h
    exact .inl ⟨h5, n, hn, rfl⟩
  · obtain ⟨b, hb, h⟩ := once_eq_ok.mp h
    cases h
    exact .inr (.inl ⟨h1, b, hb, rfl, rfl⟩)
  · obtain ⟨b, hb, h⟩ := once_eq_ok.mp h
    cases h
    exact .inr (.inr ⟨h5, h1, b, hb, rfl, rfl⟩)

/-- A record body that is read is within RDATA_CAP. -/
theorem readBody_fits {e : Input} {p rdlen : Nat} {b : Bytes} (h : readBody e p rdlen = .ok b) :
    within b.length e.params.rdataCap = true := by
  obtain ⟨-, rfl, -, hcap⟩ := readBody_eq_ok h
  exact hcap

/-- Decoded record data is within NAME_CAP or RDATA_CAP, whichever bounds its variant. -/
theorem decRdata_fits {e : Input} (hp : e.params.legal = true) {rtype : U16} {rdlen p q : Nat} {d : RData}
    (h : decRdata e rtype rdlen p = some (.ok (d, q))) : rdataFits e.params d = true := by
  rcases decRdata_eq_ok h with ⟨-, n, hn, rfl⟩ | ⟨-, b, hb, rfl, -⟩ | ⟨-, -, b, hb, rfl, -⟩
  · exact decName_fits hp hn
  · exact readBody_fits hb
  · exact readBody_fits hb

/-- The parts of a decoded question, each decoded where the one before it ends. -/
theorem decQuestion_eq_ok {e : Input} {p : Nat} {r : QuestionRecord × Nat} (h : decQuestion e p = some (.ok r)) :
    ∃ q, decName e p = some (.ok (r.1.name, q)) ∧ rd16 e q .fieldTrunc = .ok r.1.qtype ∧
      rd16 e (q + 2) .fieldTrunc = .ok r.1.qclass ∧ r.2 = q + 4 := by
  simp only [decQuestion, procThen_eq_ok, once_eq_ok] at h
  obtain ⟨⟨n, q⟩, hn, qt, hqt, qc, hqc, h⟩ := h
  cases h
  exact ⟨q, hn, hqt, hqc, rfl⟩

/-- The parts of a decoded resource record, each decoded where the one before it ends. -/
theorem decRecord_eq_ok {e : Input} {p : Nat} {r : ResourceRecord × Nat} (h : decRecord e p = some (.ok r)) :
    ∃ q rdlen, decName e p = some (.ok (r.1.name, q)) ∧ rd16 e q .fieldTrunc = .ok r.1.rtype ∧
      rd16 e (q + 2) .fieldTrunc = .ok r.1.rclass ∧ rd32 e (q + 4) .fieldTrunc = .ok r.1.ttl ∧
      rd16 e (q + 8) .fieldTrunc = .ok rdlen ∧
      decRdata e r.1.rtype rdlen.toNat (q + 10) = some (.ok (r.1.rdata, r.2)) := by
  simp only [decRecord, procThen_eq_ok, once_eq_ok] at h
  obtain ⟨⟨n, q⟩, hn, t, ht, c, hc, ttl, httl, rl, hrl, ⟨d, q'⟩, hd, h⟩ := h
  cases h
  exact ⟨q, rl, hn, ht, hc, httl, hrl, hd⟩

/-- A decoded question is within NAME_CAP. -/
theorem decQuestion_fits {e : Input} (hp : e.params.legal = true) {p : Nat} {r : QuestionRecord × Nat}
    (h : decQuestion e p = some (.ok r)) : within (enclen r.1.name) e.params.nameCap = true := by
  obtain ⟨q, hname, -⟩ := decQuestion_eq_ok h
  exact decName_fits hp hname

/-- A decoded resource record is within NAME_CAP and RDATA_CAP. -/
theorem decRecord_fits {e : Input} (hp : e.params.legal = true) {p : Nat} {r : ResourceRecord × Nat}
    (h : decRecord e p = some (.ok r)) : recordFits e.params r.1 = true := by
  obtain ⟨q, rdlen, hname, -, -, -, -, hdata⟩ := decRecord_eq_ok h
  exact Bool.and_eq_true_iff.mpr ⟨decName_fits hp hname, decRdata_fits hp hdata⟩

/-- What DEC_SECTION that gives records did: it decoded as many as asked for, REC_CAP held the whole list at the
last check (spec/43_message_decoder.md R205), and each is a result of the record procedure. -/
theorem decSection_eq_ok {α : Type} {e : Input} {dec : Nat → Proc (α × Nat)} {left idx cur : Nat}
    {rs : List α × Nat} (hidx : within idx e.params.recCap = true)
    (h : decSection e dec left idx cur = some (.ok rs)) :
    rs.1.length = left ∧ within (idx + left) e.params.recCap = true ∧
      ∀ x ∈ rs.1, ∃ p q, dec p = some (.ok (x, q)) := by
  induction left generalizing idx cur rs with
  | zero =>
    cases h
    exact ⟨rfl, hidx, by simp⟩
  | succ left ih =>
    unfold decSection at h
    split_ifs at h with hcap
    swap
    · cases h
    obtain ⟨⟨x, q⟩, hx, h⟩ := procThen_eq_ok.mp h
    obtain ⟨xs, hxs, h⟩ := procThen_eq_ok.mp h
    cases h
    obtain ⟨hlen, hwithin, hmem⟩ := ih hcap hxs
    refine ⟨congrArg (· + 1) hlen, by rwa [Nat.add_right_comm] at hwithin, ?_⟩
    simp only [List.forall_mem_cons]
    exact ⟨⟨cur, q, hx⟩, hmem⟩

/-- A decoded section is within REC_CAP, and each of its records has what the record procedure guarantees. -/
theorem decSection_fits {α : Type} {e : Input} {dec : Nat → Proc (α × Nat)} {count cur : Nat}
    {rs : List α × Nat} {fits : α → Bool} (hdec : ∀ {p : Nat} {r : α × Nat}, dec p = some (.ok r) → fits r.1 = true)
    (h : decSection e dec count 0 cur = some (.ok rs)) :
    within rs.1.length e.params.recCap = true ∧ rs.1.all fits = true := by
  have hzero : within 0 e.params.recCap = true := (within_iff _ _).mpr fun c _ => Nat.zero_le c
  obtain ⟨rfl, hcap, hmem⟩ := decSection_eq_ok hzero h
  refine ⟨by rwa [Nat.zero_add] at hcap, List.all_eq_true.mpr fun x hx => ?_⟩
  obtain ⟨p, q, hpq⟩ := hmem x hx
  exact hdec hpq

/-- What DECODE_MSG that gives a message did: the header, then each section where the one before it ends. -/
theorem decodeMsg_eq_ok {e : Input} {r : Message × Nat} (h : decodeMsg e = some (.ok r)) :
    ∃ hd c₁ c₂ c₃, decHeader e = some (.ok hd) ∧ r.1.id = hd.id ∧ r.1.flags = hd.flags ∧
      decSection e (decQuestion e) hd.qd.toNat 0 12 = some (.ok (r.1.questions, c₁)) ∧
      decSection e (decRecord e) hd.an.toNat 0 c₁ = some (.ok (r.1.answers, c₂)) ∧
      decSection e (decRecord e) hd.ns.toNat 0 c₂ = some (.ok (r.1.authority, c₃)) ∧
      decSection e (decRecord e) hd.ar.toNat 0 c₃ = some (.ok (r.1.additional, r.2)) := by
  simp only [decodeMsg, procThen_eq_ok] at h
  obtain ⟨hd, hhd, ⟨qs, c₁⟩, hqs, ⟨ans, c₂⟩, hans, ⟨auth, c₃⟩, hauth, ⟨add, c⟩, hadd, h⟩ := h
  cases h
  exact ⟨hd, c₁, c₂, c₃, hhd, rfl, rfl, hqs, hans, hauth, hadd⟩

/-- Settles O34: DEC_NAME, the record bodies and DEC_SECTION each check their capacity before they store; the one
unchecked name, the root, fits every legal NAME_CAP. -/
theorem decodedMessageFitsTheStore : Obligations.DecodedMessageFitsTheStore := by
  intro e m c hp h
  obtain ⟨hd, c₁, c₂, c₃, -, -, -, hqs, hans, hauth, hadd⟩ := decodeMsg_eq_ok h
  obtain ⟨hqsLen, hqsFit⟩ :=
    decSection_fits (fits := fun q => within (enclen q.name) e.params.nameCap) (decQuestion_fits hp) hqs
  obtain ⟨hansLen, hansFit⟩ := decSection_fits (decRecord_fits hp) hans
  obtain ⟨hauthLen, hauthFit⟩ := decSection_fits (decRecord_fits hp) hauth
  obtain ⟨haddLen, haddFit⟩ := decSection_fits (decRecord_fits hp) hadd
  simp only [messageFits, Bool.and_eq_true]
  exact ⟨⟨⟨⟨⟨⟨⟨hqsLen, hansLen⟩, hauthLen⟩, haddLen⟩, hqsFit⟩, hansFit⟩, hauthFit⟩, haddFit⟩

end Sys2Proof.Machine
end

section
/-! PROOF. What a step that answers a next state did, said once over all the events a step can be. -/

namespace Sys2Proof.Machine

/-- The step of DNSC in a state in which it has the turn. -/
theorem step_of_engineState {s u : State} (h : s.engineState = some u) : step s = u.engine.result := by
  rw [step_result]
  have hbusy := (engineState_eq h).1
  cases fetch_event s with
  | engine v hv hf =>
    rw [h] at hv
    cases hv
    rw [hf]
  | rest hp => simp [hp] at hbusy
  | pass tl hp => simp [hp] at hbusy
  | waited tl hp => simp [hp] at hbusy
  | bus a tl hh => simp [State.engineState, hbusy, hh] at h
  | msgRead tl hh => simp [State.engineState, hbusy, hh] at h
  | msgWrite m tl hh => simp [State.engineState, hbusy, hh] at h
  | reset tl hh => simp [State.engineState, hbusy, hh] at h

/-- The step that takes a bus read off the host's program. -/
theorem step_of_busRead {s : State} {addr : BitVec 18} {w : Width} {rest : List HostEvent}
    (h : s.host = .bus (.read addr w) :: rest) : step s = State.busRead { s with host := rest } addr w := by
  simp [step, fetch, h, State.busAccess]

/-- The step that takes a bus write off the host's program. -/
theorem step_of_busWrite {s : State} {addr : BitVec 18} {w : Width} {data : U32} {rest : List HostEvent}
    (h : s.host = .bus (.write addr w data) :: rest) :
    step s = (State.busWrite { s with host := rest } addr w data).result := by
  simp [step_result, fetch, h, State.busAccess]

/-- The step that takes a `msg_read` off the host's program. -/
theorem step_of_msgRead {s : State} {rest : List HostEvent} (h : s.host = .msgRead :: rest) :
    step s = State.msgRead { s with host := rest } := by
  simp [step, fetch, h]

/-- The step that takes a `msg_write` off the host's program. -/
theorem step_of_msgWrite {s : State} {m : Message} {rest : List HostEvent} (h : s.host = .msgWrite m :: rest) :
    step s = State.msgWrite { s with host := rest } m := by
  simp [step, fetch, h]

/-- The step that takes a reset off the host's program. -/
theorem step_of_reset {s : State} {rest : List HostEvent} (h : s.host = .reset :: rest) :
    step s = .next (State.resetEvent { s with host := rest }) := by
  simp [step, fetch, h]

/-- What a step that answers a next state did. -/
inductive Stepped (s t : State) : Prop where
  /-- DNSC took a step of its command. -/
  | engine (u : State) (hu : s.engineState = some u) (ht : EngineMoved u t)
  /-- At most an entry of the host's program was taken off: an idle turn, an ignored write or command. -/
  | hostOnly (tl : List HostEvent) (ht : t = { s with host := tl })
  /-- A host read returned a value. -/
  | observed (tl : List HostEvent) (v : Seen) (ht : t = State.observe { s with host := tl } v)
  /-- A CMD write that is no NOP was taken while IDLE. -/
  | command (v : U32) (tl : List HostEvent) (hp : s.phase = .idle)
      (hh : s.host = .bus (.write 0x00#18 .w32 v) :: tl) (hv : v.toNat % 256 ≠ 0)
      (ht : t = State.acceptDecode { s with host := tl } ∨ t = State.acceptEncode { s with host := tl } ∨
        ∃ o, t = State.raise { s with host := tl } .illegal (.illegalCmd o))
  /-- IN_LEN was written. -/
  | inLen (tl : List HostEvent) (v : U16) (ht : t = { s with host := tl, inLen := v })
  /-- An IBUF byte was written while IDLE. -/
  | ibuf (addr : BitVec 18) (data : U32) (tl : List HostEvent) (o : Nat) (b : Byte) (hp : s.phase = .idle)
      (hh : s.host = .bus (.write addr .w8 data) :: tl) (ha : addr.toNat = 0x10000 + o) (hcap : o < s.params.ibufCap)
      (ht : t = { s with host := tl, ibuf := s.ibuf.write o b })
  /-- MSG was written. -/
  | msgWritten (tl : List HostEvent) (m : Message) (ht : t = { s with host := tl, msg := some m })
  /-- Reset. -/
  | reset (tl : List HostEvent) (hh : s.host = .reset :: tl) (ht : t = State.resetEvent { s with host := tl })

/-- What a step on a bus write did. -/
theorem stepped_of_busWrote {s t : State} {addr : BitVec 18} {w : Width} {data : U32} {tl : List HostEvent}
    (hh : s.host = .bus (.write addr w data) :: tl) (h : BusWrote { s with host := tl } addr w data t) :
    Stepped s t := by
  cases h with
  | command ha hw hexec =>
    subst ha hw
    cases command_next hexec with
    | nothing ht => exact .hostOnly tl ht
    | decode hp hv ht => exact .command data tl hp hh (by omega) (.inl ht)
    | encode hp hv ht => exact .command data tl hp hh (by omega) (.inr (.inl ht))
    | illegal o hp hv ho ht => exact .command data tl hp hh (by omega) (.inr (.inr ⟨o, ht⟩))
  | inLen _ _ ht => exact .inLen tl _ ht
  | ibuf o ha _ hcap hw hp ht =>
    subst hw
    exact .ibuf addr data tl o _ hp hh ha hcap ht
  | ignored ht => exact .hostOnly tl ht

/-- All that a step can do. -/
theorem step_next {s t : State} (h : step s = .next t) : Stepped s t := by
  rw [step_result] at h
  cases fetch_event s with
  | engine u hu hf => exact .engine u hu (engine_next (hf ▸ h))
  | rest _ _ hf =>
    rw [hf] at h
    cases h
    exact .hostOnly s.host rfl
  | pass tl _ _ hf =>
    rw [hf] at h
    cases h
    exact .hostOnly tl rfl
  | waited tl _ _ hf =>
    rw [hf] at h
    obtain ⟨v, ht⟩ := busRead_next h
    exact .observed tl v ht
  | bus a tl hh hf =>
    rw [hf] at h
    cases a with
    | read addr w =>
      obtain ⟨v, ht⟩ := busRead_next h
      exact .observed tl v ht
    | write addr w data => exact stepped_of_busWrote hh (busWrite_next h)
  | msgRead tl _ hf =>
    rw [hf] at h
    obtain ⟨-, v, ht⟩ := msgRead_next h
    exact .observed tl v ht
  | msgWrite m tl _ hf =>
    rw [hf] at h
    obtain ⟨-, -, ht⟩ := msgWrite_next h
    exact .msgWritten tl m ht
  | reset tl hh hf =>
    rw [hf] at h
    cases h
    exact .reset tl hh rfl

end Sys2Proof.Machine
end

section
/-! PROOF. The invariant holds at reset, and each kind of step keeps it (spec/10_state.md). -/

namespace Sys2Proof.Machine

/-! STATUS words (spec/10_state.md R33). -/

/-- A STATUS word in numbers. -/
theorem statusWord_toNat (busy done err : Bool) (kind : BitVec 4) (reason : Byte) :
    (statusWord busy done err kind reason).toNat =
      reason.toNat * 256 + kind.toNat * 16 + err.toNat * 4 + done.toNat * 2 + busy.toNat := by
  refine (append_toNat (0#16 ++ reason ++ kind ++ 0#1 ++ BitVec.ofBool err ++ BitVec.ofBool done)
    (BitVec.ofBool busy)).trans ?_
  simp only [append_toNat, BitVec.toNat_ofBool, BitVec.toNat_ofNat]
  omega

/-- A bit of a word in numbers. -/
theorem getLsbD_eq_decide {w : Nat} (v : BitVec w) (i : Nat) : v.getLsbD i = decide (v.toNat / 2 ^ i % 2 = 1) :=
  Nat.testBit_eq_decide_div_mod_eq

/-- Every kind of an error is at most 4 (spec/60_exceptions.md R260). -/
theorem errKind_le (e : Err) : (errKind e).toNat ≤ 4 := by cases e <;> simp [errKind]

/-- The STATUS word of a failed command in numbers: DONE and ERR, the kind, the reason. -/
theorem statusFailure_toNat (e : Err) :
    (statusFailure e).toNat = (errReason e).toNat * 256 + (errKind e).toNat * 16 + 6 := by
  simp [statusFailure, statusWord_toNat]

/-- A failed command leaves BUSY 0. -/
theorem busyBit_failure (e : Err) : busyBit (statusFailure e) = false := by
  rw [busyBit, getLsbD_eq_decide, statusFailure_toNat, decide_eq_false_iff_not]
  omega

/-- The STATUS word of a failed command is legal, whatever the error. -/
theorem statusLegal_failure (e : Err) : statusLegal (statusFailure e) = true := by
  have hn := statusFailure_toNat e
  have hkind := errKind_le e
  have hreason := (errReason e).isLt
  have hdone : doneBit (statusFailure e) = true := by
    rw [doneBit, getLsbD_eq_decide, decide_eq_true_eq]; omega
  have herr : errBit (statusFailure e) = true := by
    rw [errBit, getLsbD_eq_decide, decide_eq_true_eq]; omega
  have hbit3 : (statusFailure e).getLsbD 3 = false := by
    rw [getLsbD_eq_decide, decide_eq_false_iff_not]; omega
  have hhigh : (statusFailure e).extractLsb' 16 16 = 0#16 := by
    apply BitVec.eq_of_toNat_eq
    rw [extract_toNat, BitVec.toNat_zero]; omega
  have hfield : (kindField (statusFailure e)).toNat ≤ 4 := by
    rw [kindField, extract_toNat]; omega
  rw [statusLegal, hbit3]
  simp [busyBit_failure, hdone, herr, hhigh, hfield]

/-! The operations of the machine. -/

/-- The reset state meets the invariant for all legal parameters. -/
theorem State.Inv.resetWith {p : Params} (h : p.legal = true) : (State.resetWith p).Inv where
  paramsLegal := h
  ibufWf := List.Pairwise.nil
  ibufInside := by simp [State.resetWith]
  obufWf := List.Pairwise.nil
  obufInside := by simp [State.resetWith]
  status := (by decide : statusLegal 0#32 = true)
  busy := by simp [State.resetWith, busyBit]
  outLen := Nat.zero_le _
  lenBound := Nat.zero_le _
  curBound := Nat.le_refl 0
  segmentBound := fun _ => Nat.le_refl 0
  endBound := by simp [State.resetWith]
  hopsBound := Nat.zero_le _
  outputCount := rfl
  outputFits := Nat.zero_le _

/-- Error entry keeps the invariant. -/
theorem State.Inv.raise {s : State} (h : s.Inv) (job : Job) (e : Err) : (s.raise job e).Inv := by
  have status := statusLegal_failure e
  have busy : busyBit (statusFailure e) = true ↔ Phase.idle = .busy := by simp [busyBit_failure]
  cases job with
  | decode => exact { h with status, busy }
  | encode =>
    exact { h with status, busy, obufWf := List.Pairwise.nil, obufInside := by simp, outLen := Nat.zero_le _ }
  | illegal => exact { h with status, busy }

/-- Acceptance of a command keeps the invariant. -/
theorem State.Inv.acceptCommand {s : State} (h : s.Inv) : s.acceptCommand.Inv :=
  { h with
    status := (by decide : statusLegal statusRunning = true)
    busy := (by decide : busyBit statusRunning = true ↔ Phase.busy = .busy) }

/-- Acceptance of DECODE keeps the invariant: the cursor starts at 0. -/
theorem State.Inv.acceptDecode {s : State} (h : s.Inv) : s.acceptDecode.Inv :=
  { h.acceptCommand with
    lenBound := Nat.le_of_lt_succ s.inLen.isLt
    curBound := Nat.zero_le _
    segmentBound := fun hc => by simp at hc
    endBound := fun hc => by simp at hc }

/-- Acceptance of ENCODE keeps the invariant: there is no output yet. -/
theorem State.Inv.acceptEncode {s : State} (h : s.Inv) : s.acceptEncode.Inv :=
  { h.acceptCommand with
    segmentBound := fun hc => by simp at hc
    endBound := fun hc => by simp at hc
    outputCount := rfl
    outputFits := Nat.zero_le _ }

/-- A successful completion keeps the invariant. -/
theorem State.Inv.succeed {s : State} (h : s.Inv) : s.succeed.Inv :=
  { h with
    status := (by decide : statusLegal statusSuccess = true)
    busy := (by decide : busyBit statusSuccess = true ↔ Phase.idle = .busy) }

/-- Completion of ENCODE keeps the invariant: the output staged in `out` fits OBUF. -/
theorem State.Inv.completeEncode {s : State} (h : s.Inv) : (s.completeEncode s.out).Inv :=
  have hlen : s.out.length ≤ s.params.obufCap := h.outputCount ▸ h.outputFits
  { h.succeed with
    obufWf := Memory.wf_writeBytes h.obufWf 0 s.out
    obufInside := fun c hc => by
      rcases Memory.mem_writeBytes hc with ⟨-, hlt⟩ | hold
      · exact Nat.lt_of_lt_of_le (by simpa using hlt) hlen
      · exact h.obufInside c hold
    outLen := by
      rw [State.completeEncode_outLen, BitVec.toNat_ofNat]
      exact (Nat.mod_le _ _).trans hlen }

/-- A host write of an IBUF byte below IBUF_CAP keeps the invariant. -/
theorem State.Inv.writeIbuf {s : State} (h : s.Inv) {o : Nat} (b : Byte) (ho : o < s.params.ibufCap) :
    State.Inv { s with ibuf := s.ibuf.write o b } :=
  { h with
    ibufWf := Memory.wf_write h.ibufWf o b
    ibufInside := fun c hc => by
      rcases Memory.mem_write hc with rfl | hold
      · exact ho
      · exact h.ibufInside c hold }

/-- Emitting output that fits OBUF keeps the invariant. -/
theorem State.Inv.emit {s : State} (h : s.Inv) {b : Bytes} (hb : s.opos + b.length ≤ s.params.obufCap) :
    State.Inv { s with out := s.out ++ b, opos := s.opos + b.length } :=
  { h with
    outputCount := by simp [h.outputCount]
    outputFits := hb }

/-- Going on anywhere but at a name element keeps the invariant. -/
theorem State.Inv.goOn {s : State} (h : s.Inv) {c : Ctl} (hc : c ≠ .name) : State.Inv { s with ctl := c } :=
  { h with
    segmentBound := fun hname => absurd hname hc
    endBound := fun hname => absurd hname hc }

/-- Moving CUR to an offset inside LEN keeps the invariant (spec/10_state.md R43). -/
theorem State.Inv.moveCur {s : State} (h : s.Inv) {n : Nat} (hn : n ≤ s.len) : State.Inv { s with cur := n } :=
  { h with curBound := hn }

/-- Going on at a name element keeps the invariant if the name registers stay in their bounds
(spec/10_state.md R44). -/
theorem State.Inv.setName {s : State} (h : s.Inv) (c : Ctl) {n : NameRegs} (hp : n.p ≤ s.len)
    (hfin : ∀ q, n.fin = some q → q ≤ s.len) (hhops : n.hops ≤ s.params.ptrLimit) :
    State.Inv { s with name := n, ctl := c } :=
  { h with
    segmentBound := fun _ => hp
    endBound := fun _ => hfin
    hopsBound := hhops }

/-- Beginning a name at CUR keeps the invariant. -/
theorem State.Inv.startName {s : State} (h : s.Inv) :
    State.Inv { s with name := NameRegs.start s.cur, ctl := .name } :=
  h.setName .name h.curBound (fun _ hq => by cases hq) (Nat.zero_le _)

/-- A header field goes to the draft or to a count register, of which the invariant says nothing. -/
theorem State.Inv.setHeader {s : State} (h : s.Inv) (f : HeaderField) (v : U16) : (s.setHeader f v).Inv := by
  cases f <;> exact { h with }

/-- Finishing a record whose data ends inside LEN keeps the invariant. -/
theorem State.Inv.finishRecord {s : State} (h : s.Inv) (rt : U16) (rd : RData) {next : Nat} (hn : next ≤ s.len) :
    (s.finishRecord rt rd next).Inv :=
  { (h.moveCur hn).goOn (c := .walk) (by decide) with }

/-- Returning a name whose field ends inside LEN keeps the invariant. -/
theorem State.Inv.returnName {s : State} (h : s.Inv) (nm : DomainName) {next : Nat} (hn : next ≤ s.len) :
    (s.returnName nm next).Inv := by
  unfold State.returnName
  split
  · exact { (h.moveCur hn).goOn (c := if s.sect = .question then .qtype else .rtype) (by split <;> decide) with }
  · exact h.finishRecord _ _ hn

/-- While a name is decoded its field ends inside LEN, if the element that closes it lies inside LEN. -/
theorem State.Inv.fieldEnd_le {s : State} (h : s.Inv) (hc : s.ctl = .name) {size : Nat}
    (hp : s.name.p + size ≤ s.len) : s.name.fieldEnd size ≤ s.len := by
  unfold NameRegs.fieldEnd
  cases hf : s.name.fin with
  | none => exact hp
  | some q => exact h.endBound hc q hf

/-! The steps of a running command. -/

/-- A step at a name element keeps the invariant. -/
theorem NameMoved.keepsInv {s t : State} (hm : NameMoved s t) (h : s.Inv) (hc : s.ctl = .name) : t.Inv := by
  cases hm with
  | raised e ht => exact ht ▸ h.raise .decode e
  | term hp ht =>
    have hend := h.fieldEnd_le hc hp
    have hclosed := h.setName s.ctl (n := { s.name with fin := some (s.name.fieldEnd 1) })
      (h.segmentBound hc) (by simpa using hend) h.hopsBound
    exact ht ▸ State.Inv.returnName hclosed _ hend
  | label lab hp _ ht => exact ht ▸ h.setName s.ctl hp (h.endBound hc) h.hopsBound
  | pointer off hp ho hh ht =>
    exact ht ▸ h.setName s.ctl (Nat.le_of_lt ho) (by simpa using h.fieldEnd_le hc hp) hh

/-- A step at a record type keeps the invariant. -/
theorem RdataMoved.keepsInv {s t : State} (hm : RdataMoved s t) (h : s.Inv) : t.Inv := by
  cases hm with
  | raised e ht => exact ht ▸ h.raise .decode e
  | cname ht => exact ht ▸ { h.startName with }
  | body rt rd hl ht => exact ht ▸ h.finishRecord rt rd hl

/-- Every step of a running command keeps the invariant. -/
theorem EngineMoved.keepsInv {s t : State} (hm : EngineMoved s t) (h : s.Inv) : t.Inv := by
  cases hm with
  | decodeRaised e ht => exact ht ▸ h.raise .decode e
  | encodeRaised e ht => exact ht ▸ h.raise .encode e
  | name hc hm => exact hm.keepsInv h hc
  | rdata _ hm => exact hm.keepsInv h
  | goOn c hc ht => exact ht ▸ h.goOn hc
  | header f v hl ht =>
    have hmove := (h.setHeader f v).moveCur (n := headerOffset f + 2) (by simpa using hl)
    exact ht ▸ hmove.goOn (by cases f <;> decide)
  | field r n c hl hc ht => exact ht ▸ { (h.moveCur hl).goOn hc with }
  | question d n hl ht => exact ht ▸ { (h.moveCur hl).goOn (c := .walk) (by decide) with }
  | sectionLeft c ht => exact ht ▸ { h with }
  | owner ht => exact ht ▸ { h.startName with }
  | decoded ht => exact ht ▸ { h.succeed with }
  | encoded _ ht => exact ht ▸ h.completeEncode
  | emitted b c x k hl hk ht => exact ht ▸ { (h.emit hl).goOn hk with }

/-- Settles O44: buffers, cursors and output are empty, and STATUS 0 is a legal word. -/
theorem resetMeetsInvariant : Obligations.ResetMeetsInvariant := fun _ hp => State.Inv.resetWith hp

/-- Settles O45: taking an entry off the host's program touches no clause, and every event after it is one of the
operations above. -/
theorem stepKeepsInvariant : Obligations.StepKeepsInvariant := by
  intro s t h hstep
  have taken (tl : List HostEvent) : State.Inv { s with host := tl } := { h with }
  cases step_next hstep with
  | engine u hu hm =>
    obtain ⟨-, tl, rfl⟩ := engineState_eq hu
    exact hm.keepsInv (taken tl)
  | hostOnly tl ht => exact ht ▸ taken tl
  | observed tl v ht => exact ht ▸ { h with }
  | command v tl _ _ _ ht =>
    rcases ht with ht | ht | ⟨o, ht⟩
    · exact ht ▸ (taken tl).acceptDecode
    · exact ht ▸ (taken tl).acceptEncode
    · exact ht ▸ (taken tl).raise .illegal _
  | inLen tl v ht => exact ht ▸ { h with }
  | ibuf _ _ tl o b _ _ _ hcap ht => exact ht ▸ (taken tl).writeIbuf b hcap
  | msgWritten tl m ht => exact ht ▸ { h with }
  | reset tl _ ht => exact ht ▸ { State.Inv.resetWith h.paramsLegal with }

end Sys2Proof.Machine
end

section
/-! PROOF. What the steps of the machine leave unchanged: the internal steps of a running command, IBUF, STATUS, and
what reset gives. -/

namespace Sys2Proof.Machine

/-- What an internal step leaves of what the host can see (spec/10_state.md R48). -/
structure Invisible (s t : State) : Prop where
  ibuf : t.ibuf = s.ibuf
  inLen : t.inLen = s.inLen
  params : t.params = s.params
  seen : t.seen = s.seen
  whileBusy : t.phase = .busy →
    t.status = s.status ∧ t.msg = s.msg ∧ t.obuf = s.obuf ∧ t.outLen = s.outLen ∧ t.errPos = s.errPos

/-- Error entry leaves IBUF, IN_LEN, the parameters and the host's observations, and ends the command. -/
theorem Invisible.raise (s : State) (job : Job) (e : Err) : Invisible s (s.raise job e) := by
  constructor <;> simp

/-- A step at a name element is invisible. -/
theorem NameMoved.invisible {s t : State} (h : NameMoved s t) : Invisible s t := by
  cases h with
  | raised e ht => exact ht ▸ Invisible.raise s .decode e
  | term _ ht => subst ht; constructor <;> simp
  | label lab _ _ ht => subst ht; constructor <;> simp
  | pointer off _ _ _ ht => subst ht; constructor <;> simp

/-- A step at a record type is invisible. -/
theorem RdataMoved.invisible {s t : State} (h : RdataMoved s t) : Invisible s t := by
  cases h with
  | raised e ht => exact ht ▸ Invisible.raise s .decode e
  | cname ht => subst ht; constructor <;> simp
  | body rt rd _ ht => subst ht; constructor <;> simp

/-- Every step of a running command is invisible. -/
theorem EngineMoved.invisible {s t : State} (h : EngineMoved s t) : Invisible s t := by
  cases h with
  | decodeRaised e ht => exact ht ▸ Invisible.raise s .decode e
  | encodeRaised e ht => exact ht ▸ Invisible.raise s .encode e
  | name _ h => exact h.invisible
  | rdata _ h => exact h.invisible
  | goOn c _ ht => subst ht; constructor <;> simp
  | header f v _ ht => subst ht; constructor <;> simp
  | field r n c _ _ ht => subst ht; constructor <;> simp
  | question d n _ ht => subst ht; constructor <;> simp
  | sectionLeft c ht => subst ht; constructor <;> simp
  | owner ht => subst ht; constructor <;> simp
  | decoded ht => subst ht; constructor <;> simp
  | encoded _ ht => subst ht; constructor <;> simp
  | emitted b c x k _ _ ht => subst ht; constructor <;> simp

/-- The machine's step while DNSC has the turn is invisible: taking off a `pass` touches no register. -/
theorem Invisible.of_engineState {s u t : State} (hu : s.engineState = some u) (h : EngineMoved u t) :
    Invisible s t := by
  obtain ⟨-, tl, rfl⟩ := engineState_eq hu
  obtain ⟨ibuf, inLen, params, seen, whileBusy⟩ := h.invisible
  exact ⟨ibuf, inLen, params, seen, whileBusy⟩

/-- Settles O47: each internal step is one of the moves of `EngineMoved`, and none of them touches host-visible state
but the error entry and the completions, after which the machine is IDLE. -/
theorem internalStepsAreInvisible : Obligations.InternalStepsAreInvisible := by
  intro s u t hu hstep
  rw [step_of_engineState hu] at hstep
  obtain ⟨ibuf, inLen, params, seen, whileBusy⟩ := Invisible.of_engineState hu (engine_next hstep)
  exact ⟨ibuf, inLen, params, seen, whileBusy⟩

/-- Settles O48: of all that a step can do, only a host byte write and reset touch IBUF. -/
theorem onlyTheHostWritesIbuf : Obligations.OnlyTheHostWritesIbuf := by
  intro s t hstep hne
  cases step_next hstep with
  | engine u hu hm => exact absurd (Invisible.of_engineState hu hm).ibuf hne
  | hostOnly tl ht => simp [ht] at hne
  | observed tl v ht => simp [ht] at hne
  | command v tl _ _ _ ht => rcases ht with ht | ht | ⟨o, ht⟩ <;> simp [ht] at hne
  | inLen tl v ht => simp [ht] at hne
  | ibuf addr data tl o b hp hh ha hcap _ => exact .inr ⟨hp, addr, data, tl, hh, by omega, by omega⟩
  | msgWritten tl m ht => simp [ht] at hne
  | reset tl hh _ => exact .inl ⟨tl, hh⟩

/-- Settles O49: an internal step that leaves DNSC BUSY keeps STATUS, and of the host's events only a command that is
no NOP and reset write it. -/
theorem statusChangesOnlyAtCommandsAndReset : Obligations.StatusChangesOnlyAtCommandsAndReset := by
  intro s t hstep hne
  cases step_next hstep with
  | engine u hu hm =>
    refine .inr (.inr ⟨(engineState_eq hu).1, ?_, by simp [hu]⟩)
    cases hp : t.phase with
    | idle => rfl
    | busy => exact absurd ((Invisible.of_engineState hu hm).whileBusy hp).1 hne
  | hostOnly tl ht => simp [ht] at hne
  | observed tl v ht => simp [ht] at hne
  | command v tl hp hh hv _ => exact .inr (.inl ⟨hp, v, tl, hh, hv⟩)
  | inLen tl v ht => simp [ht] at hne
  | ibuf _ _ tl o b _ _ _ _ ht => simp [ht] at hne
  | msgWritten tl m ht => simp [ht] at hne
  | reset tl hh _ => exact .inl ⟨tl, hh⟩

/-- Settles O46: the step is the reset event, whose every register is `State.resetWith`'s. -/
theorem resetEventGivesTheResetState : Obligations.ResetEventGivesTheResetState := by
  intro s rest hh
  exact ⟨_, step_of_reset hh, rfl, rfl, rfl, rfl, rfl, rfl, fun _ => rfl, fun _ => rfl, rfl, rfl⟩

/-- Settles O43: the first internal step of a DECODE is the capacity check. -/
theorem inputLongerThanIbufIsRefusedFirst : Obligations.InputLongerThanIbufIsRefusedFirst := by
  intro s u hu hctl hlong
  rw [step_of_engineState hu]
  simp [State.engine, hctl, Fetched.result, State.decodeStartStep, hlong]

end Sys2Proof.Machine
end

section
/-! PROOF. Where the name decoder leaves the cursor (spec/41_name_codec.md R157). -/

namespace Sys2Proof.Machine

/-- The offset after a name is END where a pointer has set it; else it lies past P and inside LEN. -/
theorem decNameLoop_next {e : Input} {fuel : Nat} {n : NameRegs} {nm : DomainName} {next : Nat}
    (h : decNameLoop e fuel n = some (.ok (nm, next))) :
    (∀ q, n.fin = some q → next = q) ∧ (n.fin = none → n.p < next ∧ next ≤ e.len) := by
  induction fuel generalizing n with
  | zero => cases h
  | succ fuel ih =>
    have label {size : Nat} {n' : NameRegs} (hstep : labelStep e n size = .ok n')
        (h : decNameLoop e fuel n' = some (.ok (nm, next))) :
        (∀ q, n.fin = some q → next = q) ∧ (n.fin = none → n.p < next ∧ next ≤ e.len) := by
      obtain ⟨lab, -, -, -, -, rfl⟩ := labelStep_eq_ok hstep
      obtain ⟨hset, hopen⟩ := ih h
      refine ⟨hset, fun hfin => ?_⟩
      obtain ⟨hlt, hle⟩ := hopen hfin
      exact ⟨by simp at hlt; omega, hle⟩
    obtain ⟨t, ht, h⟩ := once_eq_ok.mp h
    have hp : n.p < e.len := (rd8_eq_ok ht).1
    split_ifs at h
    · cases h
      exact ⟨fun q hq => by simp [NameRegs.fieldEnd, hq], fun hfin => by simp [NameRegs.fieldEnd, hfin]; omega⟩
    · obtain ⟨b1, hb1, h⟩ := once_eq_ok.mp h
      obtain ⟨n', hstep, h⟩ := once_eq_ok.mp h
      obtain ⟨-, -, rfl⟩ := pointerStep_eq_ok hstep
      have hp1 : n.p + 1 < e.len := (rd8_eq_ok hb1).1
      have hnext : next = n.fieldEnd 2 := (ih h).1 _ rfl
      subst hnext
      exact ⟨fun q hq => by simp [NameRegs.fieldEnd, hq], fun hfin => by simp [NameRegs.fieldEnd, hfin]; omega⟩
    · obtain ⟨n', hstep, h⟩ := once_eq_ok.mp h
      exact label hstep h
    · obtain ⟨n', hstep, h⟩ := once_eq_ok.mp h
      exact label (extStep_eq_ok hstep).2 h

/-- Settles O28: DEC_NAME starts with END = ⊥. -/
theorem nameDecodeAdvancesInsideLen : Obligations.NameDecodeAdvancesInsideLen :=
  fun _ _ _ _ h => (decNameLoop_next h).2 rfl

end Sys2Proof.Machine
end

section
/-! PROOF. The host interface: the register map, the buffer windows while BUSY and the message port
(spec/10_state.md R31 to R41, spec/20_memory.md R69 to R74). -/

namespace Sys2Proof.Machine

/-! The address map. -/

theorem region_registers {addr : BitVec 18} (h : addr.toNat < 0x100) : region addr = .registers := if_pos h

theorem region_ibufWindow {addr : BitVec 18} (hlo : 0x10000 ≤ addr.toNat) (hhi : addr.toNat < 0x20000) :
    region addr = .ibufWindow := by
  rw [region, if_neg (by omega), if_neg (by omega), if_pos hhi]

theorem region_obufWindow {addr : BitVec 18} (hlo : 0x20000 ≤ addr.toNat) (hhi : addr.toNat < 0x30000) :
    region addr = .obufWindow := by
  rw [region, if_neg (by omega), if_neg (by omega), if_neg (by omega), if_pos hhi]

/-- An aligned 32-bit read of the register block. -/
theorem busRead_register {s : State} {addr : BitVec 18} (ha : addr.toNat % 4 = 0) (hlt : addr.toNat < 0x100) :
    s.busRead addr .w32 = s.observeOr ((s.registerValue addr).map Seen.word) := by
  simp [State.busRead, accessDefined, region_registers hlt, ha]

/-- A register of which bits 15:0 hold a value reads as that value. -/
@[simp] theorem lowHalf_toNat (v : U16) : (lowHalf v).toNat = v.toNat := by
  rw [lowHalf, append_toNat]; simp

/-- PARAM1 in numbers (spec/10_state.md R38). -/
theorem param1Word_toNat (p : Params) :
    (param1Word p).toNat =
      (if p.extTagPolicy = .asLength then 1 else 0) + (if p.labelEncMax = .max63 then 2 else 0) := by
  unfold param1Word
  cases p.extTagPolicy <;> cases p.labelEncMax <;> decide

/-! The registers of the map (spec/10_state.md R31 to R41). -/

theorem registerValue_status (s : State) : s.registerValue 0x04#18 = some s.status := rfl

theorem registerValue_inLen (s : State) : s.registerValue 0x08#18 = some (lowHalf s.inLen) := rfl

theorem registerValue_outLen {s : State} (h : s.phase = .idle) :
    s.registerValue 0x0C#18 = some (lowHalf s.outLen) := by
  simp [State.registerValue, h]

theorem registerValue_errPos {s : State} (h : s.phase = .idle) :
    s.registerValue 0x10#18 = some (lowHalf s.errPos) := by
  simp [State.registerValue, h]

theorem registerValue_param0 (s : State) :
    s.registerValue 0x14#18 = some (lowHalf (BitVec.ofNat 16 s.params.ptrLimit)) := rfl

theorem registerValue_param1 (s : State) : s.registerValue 0x18#18 = some (param1Word s.params) := rfl

theorem registerValue_ibufCap (s : State) :
    s.registerValue 0x1C#18 = some (lowHalf (BitVec.ofNat 16 s.params.ibufCap)) := rfl

theorem registerValue_obufCap (s : State) :
    s.registerValue 0x20#18 = some (lowHalf (BitVec.ofNat 16 s.params.obufCap)) := rfl

/-- The results have no value while BUSY (spec/20_memory.md R74). -/
theorem registerValue_results_busy {s : State} (h : s.phase = .busy) :
    s.registerValue 0x0C#18 = none ∧ s.registerValue 0x10#18 = none := by
  simp [State.registerValue, h]

/-- Settles O51: the address is one of the eight registers that read a value, or one that reads 0. -/
theorem registerReadsReturnTheirValues : Obligations.RegisterReadsReturnTheirValues := by
  intro s addr rest v hh haligned hlt hidle hv
  suffices hvalue : State.registerValue { s with host := rest } addr = some v by
    rw [step_of_busRead hh, busRead_register haligned hlt, hvalue]
    rfl
  have reads {w : U32} (hr : State.registerValue { s with host := rest } addr = some w) (hw : w.toNat = v.toNat) :
      State.registerValue { s with host := rest } addr = some v := by
    rw [hr, BitVec.eq_of_toNat_eq hw]
  by_cases h04 : addr = 0x04#18
  · subst h04
    exact reads (registerValue_status _) hv.symm
  by_cases h08 : addr = 0x08#18
  · subst h08
    exact reads (registerValue_inLen _) (by simpa using hv.symm)
  by_cases h0C : addr = 0x0C#18
  · subst h0C
    exact reads (registerValue_outLen (hidle (.inl rfl))) (by simpa using hv.symm)
  by_cases h10 : addr = 0x10#18
  · subst h10
    exact reads (registerValue_errPos (hidle (.inr rfl))) (by simpa using hv.symm)
  by_cases h14 : addr = 0x14#18
  · subst h14
    exact reads (registerValue_param0 _) (by simpa using hv.symm)
  by_cases h18 : addr = 0x18#18
  · subst h18
    exact reads (registerValue_param1 _) ((param1Word_toNat _).trans hv.symm)
  by_cases h1C : addr = 0x1C#18
  · subst h1C
    exact reads (registerValue_ibufCap _) (by simpa using hv.symm)
  by_cases h20 : addr = 0x20#18
  · subst h20
    exact reads (registerValue_obufCap _) (by simpa using hv.symm)
  refine reads (w := 0#32) (by simp [State.registerValue, h04, h08, h0C, h10, h14, h18, h1C, h20]) ?_
  simp only [BitVec.toNat_eq, BitVec.toNat_ofNat, Nat.reducePow, Nat.reduceMod] at h04 h08 h0C h10 h14 h18 h1C h20
  simp [hv, h04, h08, h0C, h10, h14, h18, h1C, h20]

/-- An aligned 32-bit write of the register block other than CMD. -/
theorem busWrite_register {s : State} {addr : BitVec 18} (data : U32) (ha : addr.toNat % 4 = 0)
    (hlt : addr.toNat < 0x100) (hcmd : addr.toNat ≠ 0) :
    (s.busWrite addr .w32 data).result =
      .next (if addr.toNat = 0x08 then { s with inLen := data.extractLsb' 0 16 } else s) := by
  have h0 : addr ≠ 0x00#18 := fun h => hcmd (by rw [h]; rfl)
  have h8 : addr = 0x08#18 ↔ addr.toNat = 0x08 := BitVec.toNat_inj.symm
  by_cases h : addr.toNat = 0x08 <;>
    simp [State.busWrite, accessDefined, region_registers hlt, ha, h0, h8, h, Fetched.result]

/-- Settles O52: IN_LEN is the one register besides CMD that a write reaches. -/
theorem registerWritesOnlyReachInLen : Obligations.RegisterWritesOnlyReachInLen := by
  intro s addr data rest hh haligned hlt hcmd
  refine ⟨_, (step_of_busWrite hh).trans (busWrite_register data haligned hlt hcmd), ?_⟩
  by_cases h8 : addr.toNat = 0x08
  · simp [h8]
  · simp [h8]

/-- An 8-bit write of an IBUF byte while BUSY (spec/20_memory.md R74). -/
theorem busWrite_ibuf_busy {s : State} {addr : BitVec 18} (data : U32) (hp : s.phase = .busy)
    (hlo : 0x10000 ≤ addr.toNat) (hhi : addr.toNat < 0x20000) (hcap : addr.toNat < 0x10000 + s.params.ibufCap) :
    (s.busWrite addr .w8 data).result = .fault .hostRace := by
  have ho : windowOffset addr < s.params.ibufCap := by unfold windowOffset; omega
  simp [State.busWrite, accessDefined, region_ibufWindow hlo hhi, Fetched.result, State.writeIbuf, ho, hp]

/-- An 8-bit read of an OBUF byte while BUSY (spec/20_memory.md R74). -/
theorem busRead_obuf_busy {s : State} {addr : BitVec 18} (hp : s.phase = .busy)
    (hlo : 0x20000 ≤ addr.toNat) (hhi : addr.toNat < 0x30000) (hcap : addr.toNat < 0x20000 + s.params.obufCap) :
    s.busRead addr .w8 = .fault .uninitRead := by
  have ho : windowOffset addr < s.params.obufCap := by unfold windowOffset; omega
  simp [State.busRead, accessDefined, region_obufWindow hlo hhi, State.obufByte, ho, hp, State.observeOr]

/-- Settles O55: `registerValue` has no results while BUSY, the windows and the message port fault, and the invariant
ties the BUSY bit that a read of STATUS sees to PHASE. -/
theorem hostAccessesWhileBusy : Obligations.HostAccessesWhileBusy := by
  intro s rest hp
  obtain ⟨houtLen, herrPos⟩ := registerValue_results_busy (s := { s with host := rest }) hp
  refine ⟨?ibufWrite, ?msgWrite, ?obufRead, ?outLen, ?errPos, ?msgRead, ?status, ?inLen⟩
  case ibufWrite =>
    intro addr data hh hlo hhi hcap
    rw [step_of_busWrite hh]
    exact busWrite_ibuf_busy data hp hlo hhi hcap
  case msgWrite =>
    intro m hh
    rw [step_of_msgWrite hh]
    simp [State.msgWrite, hp]
  case obufRead =>
    intro addr hh hlo hhi hcap
    rw [step_of_busRead hh]
    exact busRead_obuf_busy hp hlo hhi hcap
  case outLen =>
    intro hh
    rw [step_of_busRead hh, busRead_register (by decide) (by decide), houtLen]
    rfl
  case errPos =>
    intro hh
    rw [step_of_busRead hh, busRead_register (by decide) (by decide), herrPos]
    rfl
  case msgRead =>
    intro hh
    rw [step_of_msgRead hh]
    simp [State.msgRead, hp]
  case status =>
    intro hinv hh
    refine ⟨s.status, hinv.busy.mpr hp, ?_⟩
    rw [step_of_busRead hh, busRead_register (by decide) (by decide), registerValue_status]
    rfl
  case inLen =>
    intro data hh
    exact ⟨_, (step_of_busWrite hh).trans (busWrite_register data (by decide) (by decide) (by decide)), rfl⟩

/-- Settles O56: while IDLE the message port reads MSG as it is and stores what fits. -/
theorem messagePortReadsAndWritesWhole : Obligations.MessagePortReadsAndWritesWhole := by
  intro s rest hp
  refine ⟨fun hh => ?_, fun m hh => ?_⟩
  · rw [step_of_msgRead hh]
    exact ⟨fun m hm => by simp [State.msgRead, hp, hm, State.observeOr, State.observe],
      fun hm => by simp [State.msgRead, hp, hm, State.observeOr]⟩
  · rw [step_of_msgWrite hh]
    exact ⟨fun hfits => by simp [State.msgWrite, hp, hfits], fun hfits => by simp [State.msgWrite, hp, hfits]⟩

end Sys2Proof.Machine
end

section
/-! PROOF. Byte accesses of the address space while IDLE, and the accesses it does not define
(spec/20_memory.md R69 to R71). -/

namespace Sys2Proof.Machine

theorem region_unmapped {addr : BitVec 18} (hregs : 0x100 ≤ addr.toNat)
    (hout : addr.toNat < 0x10000 ∨ 0x30000 ≤ addr.toNat) : region addr = .unmapped := by
  rw [region, if_neg (by omega)]
  rcases hout with hlo | hhi
  · rw [if_pos hlo]
  · rw [if_neg (by omega), if_neg (by omega), if_neg (by omega)]

/-- A byte of an unmapped address cannot cross into another region. -/
theorem accessDefined_unmapped_byte {addr : BitVec 18} (hregs : 0x100 ≤ addr.toNat)
    (hout : addr.toNat < 0x10000 ∨ 0x30000 ≤ addr.toNat) : accessDefined addr .w8 = true := by
  have hspace := addr.isLt
  simp only [accessDefined, region_unmapped hregs hout, Bool.or_eq_true, Bool.and_eq_true, decide_eq_true_eq]
  rw [widthBytes]
  omega

theorem windowOffset_ibuf {addr : BitVec 18} (hlo : 0x10000 ≤ addr.toNat) (hhi : addr.toNat < 0x20000) :
    windowOffset addr = addr.toNat - 0x10000 := by
  unfold windowOffset; omega

theorem windowOffset_obuf {addr : BitVec 18} (hlo : 0x20000 ≤ addr.toNat) (hhi : addr.toNat < 0x30000) :
    windowOffset addr = addr.toNat - 0x20000 := by
  unfold windowOffset; omega

/-- An 8-bit read of the IBUF window. -/
theorem busRead_ibuf_byte (s : State) {addr : BitVec 18} (hlo : 0x10000 ≤ addr.toNat) (hhi : addr.toNat < 0x20000) :
    s.busRead addr .w8 = s.observeOr ((s.ibufByte (addr.toNat - 0x10000)).map Seen.byte) := by
  simp [State.busRead, accessDefined, region_ibufWindow hlo hhi, windowOffset_ibuf hlo hhi]

/-- An 8-bit read of the OBUF window. -/
theorem busRead_obuf_byte (s : State) {addr : BitVec 18} (hlo : 0x20000 ≤ addr.toNat) (hhi : addr.toNat < 0x30000) :
    s.busRead addr .w8 = s.observeOr ((s.obufByte (addr.toNat - 0x20000)).map Seen.byte) := by
  simp [State.busRead, accessDefined, region_obufWindow hlo hhi, windowOffset_obuf hlo hhi]

/-- An 8-bit read of an unmapped address. -/
theorem busRead_unmapped_byte (s : State) {addr : BitVec 18} (hregs : 0x100 ≤ addr.toNat)
    (hout : addr.toNat < 0x10000 ∨ 0x30000 ≤ addr.toNat) :
    s.busRead addr .w8 = s.observeOr (some (.byte 0#8)) := by
  simp [State.busRead, accessDefined_unmapped_byte hregs hout, region_unmapped hregs hout, State.observeOr]

/-- While IDLE an OBUF byte inside the capacity is what OBUF holds (spec/20_memory.md R69). -/
theorem obufByte_idle {s : State} (hp : s.phase = .idle) (o : Nat) :
    s.obufByte o = if o < s.params.obufCap then s.obuf.read o else some 0#8 := by
  simp [State.obufByte, hp]

/-- Settles O54: the address lies in the IBUF window, in the OBUF window or in unmapped space. -/
theorem byteReadsReturnBufferBytes : Obligations.ByteReadsReturnBufferBytes := by
  intro s addr rest b hp hh hregs hb
  suffices hread : State.busRead { s with host := rest } addr .w8 =
      State.observeOr { s with host := rest } (b.map Seen.byte) by
    rw [step_of_busRead hh, hread]
    exact ⟨fun v hv => by rw [hv]; rfl, fun hnone => by rw [hnone]; rfl⟩
  by_cases hout : addr.toNat < 0x10000 ∨ 0x30000 ≤ addr.toNat
  · rw [if_neg (by omega), if_neg (by omega)] at hb
    rw [busRead_unmapped_byte _ hregs hout, hb]
    rfl
  by_cases hibuf : addr.toNat < 0x20000
  · have hlo : 0x10000 ≤ addr.toNat := by omega
    have hbyte : b = s.ibufByte (addr.toNat - 0x10000) := by
      simpa [State.ibufByte, hlo, hibuf, Nat.not_le.mpr hibuf] using hb
    rw [busRead_ibuf_byte _ hlo hibuf, hbyte]
    rfl
  · have hlo : 0x20000 ≤ addr.toNat := by omega
    have hhi : addr.toNat < 0x30000 := by omega
    have hbyte : b = s.obufByte (addr.toNat - 0x20000) := by
      simpa [obufByte_idle hp, hlo, hhi, hibuf] using hb
    rw [busRead_obuf_byte _ hlo hhi, hbyte]
    rfl

/-- An 8-bit write of an IBUF byte while IDLE. -/
theorem busWrite_ibuf_idle {s : State} {addr : BitVec 18} (data : U32) (hp : s.phase = .idle)
    (hlo : 0x10000 ≤ addr.toNat) (hhi : addr.toNat < 0x20000) (hcap : addr.toNat - 0x10000 < s.params.ibufCap) :
    (s.busWrite addr .w8 data).result =
      .next { s with ibuf := s.ibuf.write (addr.toNat - 0x10000) (data.extractLsb' 0 8) } := by
  simp [State.busWrite, accessDefined, region_ibufWindow hlo hhi, windowOffset_ibuf hlo hhi, Fetched.result,
    State.writeIbuf, hcap, hp]

/-- An 8-bit write outside the register block that reaches no IBUF byte is ignored (spec/20_memory.md R69). -/
theorem busWrite_byte_ignored {s : State} {addr : BitVec 18} (data : U32) (hregs : 0x100 ≤ addr.toNat)
    (hmiss : ¬ (0x10000 ≤ addr.toNat ∧ addr.toNat < 0x20000 ∧ addr.toNat - 0x10000 < s.params.ibufCap)) :
    (s.busWrite addr .w8 data).result = .next s := by
  by_cases hout : addr.toNat < 0x10000 ∨ 0x30000 ≤ addr.toNat
  · simp [State.busWrite, accessDefined_unmapped_byte hregs hout, region_unmapped hregs hout, Fetched.result]
  by_cases hibuf : addr.toNat < 0x20000
  · have hlo : 0x10000 ≤ addr.toNat := by omega
    have hcap : ¬ addr.toNat - 0x10000 < s.params.ibufCap := fun h => hmiss ⟨hlo, hibuf, h⟩
    simp [State.busWrite, accessDefined, region_ibufWindow hlo hibuf, windowOffset_ibuf hlo hibuf, Fetched.result,
      State.writeIbuf, hcap]
  · have hlo : 0x20000 ≤ addr.toNat := by omega
    have hhi : addr.toNat < 0x30000 := by omega
    simp [State.busWrite, accessDefined, region_obufWindow hlo hhi, Fetched.result]

/-- Settles O53: a byte write reaches the IBUF byte its address names, or is ignored. -/
theorem byteWritesReachOnlyIbuf : Obligations.ByteWritesReachOnlyIbuf := by
  intro s addr data rest hp hh hregs
  rw [step_of_busWrite hh]
  by_cases hreach : 0x10000 ≤ addr.toNat ∧ addr.toNat < 0x20000 ∧ addr.toNat - 0x10000 < s.params.ibufCap
  · obtain ⟨hlo, hhi, hcap⟩ := hreach
    refine ⟨_, busWrite_ibuf_idle (s := { s with host := rest }) data hp hlo hhi hcap, rfl, fun a => ?_⟩
    rw [Memory.read_write]
    exact if_congr (by omega) rfl rfl
  · exact ⟨_, busWrite_byte_ignored (s := { s with host := rest }) data hregs hreach, rfl,
      fun a => (if_neg (by omega)).symm⟩

/-- The register block takes aligned 32-bit accesses only, the windows 8-bit ones only (spec/20_memory.md R70). -/
theorem accessDefined_eq_false {addr : BitVec 18} {w : Width}
    (h : (addr.toNat < 0x100 ∧ (w ≠ .w32 ∨ addr.toNat % 4 ≠ 0)) ∨
      (0x10000 ≤ addr.toNat ∧ addr.toNat < 0x30000 ∧ w ≠ .w8)) : accessDefined addr w = false := by
  rcases h with ⟨hregs, hbad | hbad⟩ | ⟨hlo, hhi, hbad⟩
  · simp [accessDefined, region_registers hregs, hbad]
  · simp [accessDefined, region_registers hregs, hbad]
  · by_cases hibuf : addr.toNat < 0x20000
    · simp [accessDefined, region_ibufWindow hlo hibuf, hbad]
    · simp [accessDefined, region_obufWindow (Nat.not_lt.mp hibuf) hhi, hbad]

/-- Settles O57: an access that is not defined is refused before the phase is looked at. -/
theorem undefinedAccessesAreRefused : Obligations.UndefinedAccessesAreRefused := by
  intro s addr w rest h
  have hundefined := accessDefined_eq_false h
  refine ⟨fun hh => ?_, fun data hh => ?_⟩
  · rw [step_of_busRead hh]
    simp [State.busRead, hundefined]
  · rw [step_of_busWrite hh]
    simp [State.busWrite, hundefined, Fetched.result]

end Sys2Proof.Machine
end

section
/-! PROOF. The run of an ENCODE: ENC_CORE as one pass over the encoders of all records, what R226 reports once the
output has passed OBUF_CAP, and the machine's run of that pass, one record at a time (spec/44_message_encoder.md R220,
R226). -/

namespace Sys2Proof.Machine

/-! ENC_CORE as one pass. -/

/-- The encoding of one record, given the output offset of its first byte. -/
abbrev Encoder := Nat → Except Err Bytes

/-- The encoders of the records of a section. -/
def sectionEncoders (max : LabelEncMax) (m : Message) : Sect → List Encoder
  | .header => []
  | .question => m.questions.map (encQuestion max)
  | .answer => m.answers.map (encRecord max)
  | .authority => m.authority.map (encRecord max)
  | .additional => m.additional.map (encRecord max)

/-- The encoders of the records of all sections after one. -/
def encodersAfter (max : LabelEncMax) (m : Message) (c : Sect) : List Encoder :=
  let encoders := sectionEncoders max m
  match c with
  | .header => encoders .question ++ (encoders .answer ++ (encoders .authority ++ (encoders .additional ++ [])))
  | .question => encoders .answer ++ (encoders .authority ++ (encoders .additional ++ []))
  | .answer => encoders .authority ++ (encoders .additional ++ [])
  | .authority => encoders .additional ++ []
  | .additional => []

/-- The encoders after a section are those of the next section and those after it. -/
theorem encodersAfter_of_nextSect (max : LabelEncMax) (m : Message) {c d : Sect} (h : nextSect c = some d) :
    encodersAfter max m c = sectionEncoders max m d ++ encodersAfter max m d := by
  cases c <;> cases h <;> rfl

/-- The record at `idx` of a section is encoded by the section's encoder at `idx`. -/
theorem encItem_eq (max : LabelEncMax) (m : Message) (c : Sect) (idx base : Nat) :
    encItem max m c idx base = (sectionEncoders max m c)[idx]?.map fun f => f base := by
  cases c <;> simp [encItem, sectionEncoders, Function.comp_def]

/-- Encoders run one after the other, each at the end of the output so far. -/
def encodeAll : List Encoder → Bytes → Except Err Bytes := encEach fun f => f

theorem encodeAll_nil (out : Bytes) : encodeAll [] out = .ok out := rfl

theorem encodeAll_cons (f : Encoder) (fs : List Encoder) (out : Bytes) :
    encodeAll (f :: fs) out = (f out.length).bind fun b => encodeAll fs (out ++ b) := by
  unfold encodeAll
  rw [encEach]
  cases f out.length <;> rfl

theorem encodeAll_append (fs gs : List Encoder) (out : Bytes) :
    encodeAll (fs ++ gs) out = (encodeAll fs out).bind (encodeAll gs) := by
  induction fs generalizing out with
  | nil => rfl
  | cons f fs ih =>
    rw [List.cons_append, encodeAll_cons, encodeAll_cons]
    cases f out.length with
    | error e => rfl
    | ok b => exact ih (out ++ b)

theorem encEach_eq_encodeAll {α : Type} (enc : α → Encoder) (xs : List α) (out : Bytes) :
    encEach enc xs out = encodeAll (xs.map enc) out := by
  induction xs generalizing out with
  | nil => rfl
  | cons x xs ih =>
    rw [encEach, List.map_cons, encodeAll_cons]
    cases enc x out.length with
    | error e => rfl
    | ok b => exact ih (out ++ b)

/-- CHECK_COUNTS and then ENC_HEADER (R221, R222). -/
def checkedHeader (m : Message) : Except Err Bytes := (checkCounts m).map fun _ => encHeader m

/-- ENC_CORE is the header and then all records, section after section. -/
theorem encCore_eq (max : LabelEncMax) (m : Message) :
    encCore max m = (checkedHeader m).bind fun b => encodeAll (encodersAfter max m .header) ([] ++ b) := by
  unfold encCore checkedHeader
  cases checkCounts m with
  | error e => rfl
  | ok u =>
    simp only [Except.map, Except.bind, List.nil_append, encodersAfter, sectionEncoders, encodeAll_append,
      List.append_nil, encEach_eq_encodeAll]
    cases encodeAll (m.questions.map (encQuestion max)) (encHeader m) with
    | error e => rfl
    | ok b1 =>
      dsimp only
      cases encodeAll (m.answers.map (encRecord max)) b1 with
      | error e => rfl
      | ok b2 =>
        dsimp only
        cases encodeAll (m.authority.map (encRecord max)) b2 <;> rfl

/-! Encoders raise no error before their own first byte. -/

/-- Every error of the encoder is at or past the offset at which it starts. -/
def Encoder.ErrorsFromBase (f : Encoder) : Prop := ∀ base e, f base = .error e → base ≤ errPosition e

theorem encName_errorsFromBase (max : LabelEncMax) (n : DomainName) : Encoder.ErrorsFromBase (encName max n) := by
  intro base e h
  induction n generalizing base with
  | nil => cases h
  | cons l n ih =>
    unfold encName at h
    split_ifs at h
    · cases h
      exact Nat.le_refl base
    · split at h
      · next e' he =>
        cases h
        have := ih _ he
        omega
      · cases h

theorem encRdata_errorsFromBase (max : LabelEncMax) (rd : RData) : Encoder.ErrorsFromBase (encRdata max rd) := by
  intro base e h
  cases rd with
  | cname n => exact encName_errorsFromBase max n base e h
  | a b => cases h
  | opaq b => cases h

theorem encQuestion_errorsFromBase (max : LabelEncMax) (q : QuestionRecord) :
    Encoder.ErrorsFromBase (encQuestion max q) := by
  intro base e h
  unfold encQuestion at h
  split at h
  · next e' he =>
    cases h
    exact encName_errorsFromBase max q.name base e he
  · cases h

theorem encRecord_errorsFromBase (max : LabelEncMax) (r : ResourceRecord) :
    Encoder.ErrorsFromBase (encRecord max r) := by
  intro base e h
  unfold encRecord at h
  split at h
  · next e' he =>
    cases h
    exact encName_errorsFromBase max r.name base e he
  · split at h
    · next e' he =>
      cases h
      have := encRdata_errorsFromBase max r.rdata _ e he
      omega
    · split_ifs at h
      cases h
      simp only [errPosition]
      omega

theorem sectionEncoders_errorsFromBase {max : LabelEncMax} {m : Message} {c : Sect} {f : Encoder}
    (h : f ∈ sectionEncoders max m c) : f.ErrorsFromBase := by
  have records {rs : List ResourceRecord} (h : f ∈ rs.map (encRecord max)) : f.ErrorsFromBase := by
    obtain ⟨r, -, rfl⟩ := List.mem_map.mp h
    exact encRecord_errorsFromBase max r
  cases c with
  | header => cases h
  | question =>
    obtain ⟨q, -, rfl⟩ := List.mem_map.mp h
    exact encQuestion_errorsFromBase max q
  | answer => exact records h
  | authority => exact records h
  | additional => exact records h

theorem encodersAfter_errorsFromBase {max : LabelEncMax} {m : Message} {c : Sect} {f : Encoder}
    (h : f ∈ encodersAfter max m c) : f.ErrorsFromBase := by
  have hsect : ∃ d, f ∈ sectionEncoders max m d := by
    cases c <;> simp only [encodersAfter, List.mem_append, List.not_mem_nil, or_false] at h
    · rcases h with h | h | h | h <;> exact ⟨_, h⟩
    · rcases h with h | h | h <;> exact ⟨_, h⟩
    · rcases h with h | h <;> exact ⟨_, h⟩
    · exact ⟨_, h⟩
  obtain ⟨d, hd⟩ := hsect
  exact sectionEncoders_errorsFromBase hd

/-- Once the output has passed OBUF_CAP, nothing that ENC_CORE still finds is reported (R226). -/
theorem fitOutput_of_full {p : Params} {fs : List Encoder} (hfs : ∀ f ∈ fs, f.ErrorsFromBase) {out : Bytes}
    (hfull : p.obufCap < out.length) : fitOutput p (encodeAll fs out) = .error (obufFull p) := by
  induction fs generalizing out with
  | nil => simp [encodeAll_nil, fitOutput, Nat.not_le.mpr hfull]
  | cons f fs ih =>
    obtain ⟨hf, hfs⟩ := List.forall_mem_cons.mp hfs
    rw [encodeAll_cons]
    cases hb : f out.length with
    | error e =>
      have hpos : p.obufCap < errPosition e := Nat.lt_of_lt_of_le hfull (hf _ e hb)
      simp [Except.bind, fitOutput, reported, Nat.not_le.mpr hpos]
    | ok b =>
      refine ih hfs ?_
      rw [List.length_append]
      omega

/-! The machine's run. -/

/-- ENCODE of `m` is running, and the host has nothing to do. -/
structure EncodeRunning (s : State) (m : Message) : Prop where
  busy : s.phase = .busy
  host : s.host = []
  msg : s.msg = some m

/-- The state in which an ENCODE that runs in `s` is at record `idx` of a section and has produced `out`. -/
def State.encodeAt (s : State) (c : Sect) (idx : Nat) (out : Bytes) (k : Ctl) : State :=
  { s with sect := c, idx := idx, out := out, opos := out.length, ctl := k }

/-- The states that an ENCODE which runs in `s` can end in, by its result (R226). -/
inductive EncodeEnded (s : State) : Except Err Bytes → State → Prop where
  | completed (c : Sect) (idx : Nat) (k : Ctl) (out : Bytes) :
      EncodeEnded s (.ok out) ((s.encodeAt c idx out k).completeEncode out)
  | raised (c : Sect) (idx : Nat) (k : Ctl) (out : Bytes) (e : Err) :
      EncodeEnded s (.error e) ((s.encodeAt c idx out k).raise .encode e)

/-- From `u` on, an ENCODE that runs in `s` comes to an end with the result `r`. -/
def EncodeRuns (s : State) (r : Except Err Bytes) (u : State) : Prop :=
  ∃ k t, runSteps k u = .next t ∧ EncodeEnded s r t

theorem EncodeRuns.of_step {s u v : State} {r : Except Err Bytes} (h : step u = .next v) (hv : EncodeRuns s r v) :
    EncodeRuns s r u := by
  obtain ⟨k, t, hrun, hended⟩ := hv
  exact ⟨k + 1, t, by simpa [runSteps, h] using hrun, hended⟩

theorem EncodeRuns.of_ended {s t : State} {r : Except Err Bytes} (h : EncodeEnded s r t) : EncodeRuns s r t :=
  ⟨0, t, rfl, h⟩

/-- While ENCODE runs, a step is DNSC's. -/
theorem step_encodeAt {s : State} {m : Message} (hs : EncodeRunning s m) (c : Sect) (idx : Nat) (out : Bytes)
    (k : Ctl) : step (s.encodeAt c idx out k) = (s.encodeAt c idx out k).engine.result :=
  step_of_engineState (by simp [State.engineState, State.encodeAt, hs.busy, hs.host])

/-- The first step emits the header (R221, R222). -/
theorem step_encodeStart {s : State} {m : Message} (hs : EncodeRunning s m) (c : Sect) (idx : Nat) (out : Bytes) :
    step (s.encodeAt c idx out .encodeStart) = (s.encodeAt c idx out .encodeStart).emit (checkedHeader m)
      fun t => { t with sect := .question, idx := 0, ctl := .encodeRecord } := by
  rw [step_encodeAt hs]
  simp only [State.engine, State.encodeAt, Fetched.result, State.encodeStartStep, State.withMsg, hs.msg, checkedHeader]
  cases checkCounts m <;> rfl

/-- A step at a record emits it. -/
theorem step_encodeRecord {s : State} {m : Message} (hs : EncodeRunning s m) {c : Sect} {idx : Nat} {f : Encoder}
    (hf : (sectionEncoders s.params.labelEncMax m c)[idx]? = some f) (out : Bytes) :
    step (s.encodeAt c idx out .encodeRecord) =
      (s.encodeAt c idx out .encodeRecord).emit (f out.length) fun t => { t with idx := t.idx + 1 } := by
  rw [step_encodeAt hs]
  simp [State.engine, State.encodeAt, Fetched.result, State.encodeRecordStep, State.withMsg, hs.msg, encItem_eq, hf]

/-- A step past a section's last record leaves the section. -/
theorem step_encodeLeave {s : State} {m : Message} (hs : EncodeRunning s m) {c : Sect} {idx : Nat}
    (hf : (sectionEncoders s.params.labelEncMax m c)[idx]? = none) (out : Bytes) :
    step (s.encodeAt c idx out .encodeRecord) =
      .next ((s.encodeAt c idx out .encodeRecord).leaveSection .encodeDone) := by
  rw [step_encodeAt hs]
  simp [State.engine, State.encodeAt, Fetched.result, State.encodeRecordStep, State.withMsg, hs.msg, encItem_eq, hf]

/-- The last step completes ENCODE. -/
theorem step_encodeDone {s : State} {m : Message} (hs : EncodeRunning s m) (c : Sect) (idx : Nat) (out : Bytes) :
    step (s.encodeAt c idx out .encodeDone) = .next ((s.encodeAt c idx out .encodeDone).completeEncode out) :=
  step_encodeAt hs c idx out .encodeDone

/-- Emitting bytes that fit moves the output on. -/
theorem emit_encodeAt_fits {s : State} {c : Sect} {idx : Nat} {out b : Bytes} {k : Ctl} {next : State → State}
    (hfits : (out ++ b).length ≤ s.params.obufCap) :
    (s.encodeAt c idx out k).emit (.ok b) next = .next (next (s.encodeAt c idx (out ++ b) k)) := by
  simp only [State.encodeAt]
  rw [List.length_append] at hfits ⊢
  exact if_pos hfits

/-- Emitting bytes that pass OBUF_CAP enters the error. -/
theorem emit_encodeAt_full {s : State} {c : Sect} {idx : Nat} {out b : Bytes} {k : Ctl} {next : State → State}
    (hfull : ¬ (out ++ b).length ≤ s.params.obufCap) :
    (s.encodeAt c idx out k).emit (.ok b) next =
      .next ((s.encodeAt c idx out k).raise .encode (obufFull s.params)) := by
  rw [List.length_append] at hfull
  exact if_neg hfull

/-- A step that emits `r` in front of the encoders `fs` runs to what R226 reports for all of them: the step's own error,
the overflow that hides every later error, or the result of the run that goes on. -/
theorem EncodeRuns.of_emit {s : State} {c : Sect} {idx : Nat} {out : Bytes} {k : Ctl} {r : Except Err Bytes}
    {next : State → State} {fs : List Encoder}
    (hstep : step (s.encodeAt c idx out k) = (s.encodeAt c idx out k).emit r next)
    (hfs : ∀ f ∈ fs, f.ErrorsFromBase)
    (hnext : ∀ b, (out ++ b).length ≤ s.params.obufCap →
      EncodeRuns s (fitOutput s.params (encodeAll fs (out ++ b))) (next (s.encodeAt c idx (out ++ b) k))) :
    EncodeRuns s (fitOutput s.params (r.bind fun b => encodeAll fs (out ++ b))) (s.encodeAt c idx out k) := by
  cases r with
  | error e => exact .of_step hstep (.of_ended (.raised c idx k out _))
  | ok b =>
    show EncodeRuns s (fitOutput s.params (encodeAll fs (out ++ b))) _
    by_cases hfits : (out ++ b).length ≤ s.params.obufCap
    · exact .of_step (hstep.trans (emit_encodeAt_fits hfits)) (hnext b hfits)
    · rw [fitOutput_of_full hfs (Nat.not_le.mp hfits)]
      exact .of_step (hstep.trans (emit_encodeAt_full hfits)) (.of_ended (.raised c idx k out _))

/-- From record `idx` of a section on, ENCODE runs to the result of the encoders that are left, if it does so from the
section's end. -/
theorem EncodeRuns.of_section {s : State} {m : Message} (hs : EncodeRunning s m) (c : Sect)
    (hleave : ∀ idx out, out.length ≤ s.params.obufCap →
      EncodeRuns s (fitOutput s.params (encodeAll (encodersAfter s.params.labelEncMax m c) out))
        ((s.encodeAt c idx out .encodeRecord).leaveSection .encodeDone))
    (idx : Nat) (out : Bytes) (hout : out.length ≤ s.params.obufCap) :
    EncodeRuns s
      (fitOutput s.params (encodeAll
        ((sectionEncoders s.params.labelEncMax m c).drop idx ++ encodersAfter s.params.labelEncMax m c) out))
      (s.encodeAt c idx out .encodeRecord) := by
  generalize hleft : (sectionEncoders s.params.labelEncMax m c).drop idx = left
  induction left generalizing idx out with
  | nil =>
    have hnone : (sectionEncoders s.params.labelEncMax m c)[idx]? = none :=
      List.getElem?_eq_none (List.drop_eq_nil_iff.mp hleft)
    exact .of_step (step_encodeLeave hs hnone out) (hleave idx out hout)
  | cons f left ih =>
    have hf : (sectionEncoders s.params.labelEncMax m c)[idx]? = some f := by
      rw [← List.head?_drop, hleft]; rfl
    have hrest : (sectionEncoders s.params.labelEncMax m c).drop (idx + 1) = left := by
      rw [← List.tail_drop, hleft]; rfl
    rw [List.cons_append, encodeAll_cons]
    refine .of_emit (step_encodeRecord hs hf out) (fun g hg => ?_) fun b hfits => ih (idx + 1) (out ++ b) hfits hrest
    rcases List.mem_append.mp hg with hg | hg
    · exact sectionEncoders_errorsFromBase (List.mem_of_mem_drop (hrest ▸ hg))
    · exact encodersAfter_errorsFromBase hg

/-- Leaving the last section, ENCODE completes with the output that is there. -/
theorem EncodeRuns.of_lastSection {s : State} {m : Message} (hs : EncodeRunning s m) {c : Sect}
    (hlast : nextSect c = none) (idx : Nat) (out : Bytes) (hout : out.length ≤ s.params.obufCap) :
    EncodeRuns s (fitOutput s.params (encodeAll [] out))
      ((s.encodeAt c idx out .encodeRecord).leaveSection .encodeDone) := by
  have hleft : (s.encodeAt c idx out .encodeRecord).leaveSection .encodeDone = s.encodeAt c idx out .encodeDone := by
    simp [State.leaveSection, State.encodeAt, hlast]
  rw [hleft, encodeAll_nil, fitOutput, if_pos hout]
  exact .of_step (step_encodeDone hs c idx out) (.of_ended (.completed c idx .encodeDone out))

/-- Leaving a section that another follows, ENCODE runs as from that section's first record. -/
theorem EncodeRuns.of_nextSection {s : State} {m : Message} {c d : Sect} (hnext : nextSect c = some d)
    (hd : ∀ idx out, out.length ≤ s.params.obufCap →
      EncodeRuns s
        (fitOutput s.params (encodeAll
          ((sectionEncoders s.params.labelEncMax m d).drop idx ++ encodersAfter s.params.labelEncMax m d) out))
        (s.encodeAt d idx out .encodeRecord))
    (idx : Nat) (out : Bytes) (hout : out.length ≤ s.params.obufCap) :
    EncodeRuns s (fitOutput s.params (encodeAll (encodersAfter s.params.labelEncMax m c) out))
      ((s.encodeAt c idx out .encodeRecord).leaveSection .encodeDone) := by
  have hleft : (s.encodeAt c idx out .encodeRecord).leaveSection .encodeDone = s.encodeAt d 0 out .encodeRecord := by
    simp [State.leaveSection, State.encodeAt, hnext]
  rw [hleft, encodersAfter_of_nextSect _ _ hnext]
  exact hd 0 out hout

/-- From its start, ENCODE runs to the result of R226. -/
theorem EncodeRuns.of_start {s : State} {m : Message} (hs : EncodeRunning s m) (c : Sect) (idx : Nat) :
    EncodeRuns s (encodeResult s.params m) (s.encodeAt c idx [] .encodeStart) := by
  have additional := of_section hs .additional (of_lastSection hs rfl)
  have authority := of_section hs .authority (of_nextSection rfl additional)
  have answer := of_section hs .answer (of_nextSection rfl authority)
  have question := of_section hs .question (of_nextSection rfl answer)
  rw [encodeResult, encCore_eq]
  exact .of_emit (step_encodeStart hs c idx []) (fun f hf => encodersAfter_errorsFromBase hf)
    fun b hfits => question 0 ([] ++ b) hfits

/-- A step of an ENCODE that has no message is the model fault UNINIT_READ (spec/45_host_commands.md R243). -/
theorem step_encodeStart_of_no_msg {s : State} (hp : s.phase = .busy) (hh : s.host = [])
    (hctl : s.ctl = .encodeStart) (hm : s.msg = none) : step s = .fault .uninitRead := by
  rw [step_of_engineState (u := s) (by simp [State.engineState, hp, hh])]
  simp [State.engine, hctl, Fetched.result, State.encodeStartStep, State.withMsg, hm]

/-- R226's table, row by row. -/
theorem encodeResult_table (p : Params) (m : Message) :
    (∀ b, encCore p.labelEncMax m = .ok b →
      (b.length ≤ p.obufCap → encodeResult p m = .ok b) ∧
      (p.obufCap < b.length → encodeResult p m = .error (.capacity .obuf p.obufCap))) ∧
    (∀ e, encCore p.labelEncMax m = .error e →
      (errPosition e ≤ p.obufCap → encodeResult p m = .error e) ∧
      (p.obufCap < errPosition e → encodeResult p m = .error (.capacity .obuf p.obufCap))) := by
  refine ⟨fun b hb => ⟨fun hfits => ?_, fun hfull => ?_⟩, fun e he => ⟨fun hfits => ?_, fun hfull => ?_⟩⟩
  · simp [encodeResult, hb, fitOutput, hfits]
  · simp [encodeResult, hb, fitOutput, Nat.not_le.mpr hfull, obufFull]
  · simp [encodeResult, he, fitOutput, reported, hfits]
  · simp [encodeResult, he, fitOutput, reported, Nat.not_le.mpr hfull, obufFull]

/-- Settles O42: the machine's run emits what ENC_CORE encodes, record by record, and an overflow ends it where R226
hides everything ENC_CORE would still find. -/
theorem encodeCommandRunsToItsResult : Obligations.EncodeCommandRunsToItsResult := by
  refine ⟨fun s x hp hh => ?_, encodeResult_table⟩
  have haccept : exec (.cmdEncode x) s = .next s.acceptEncode := by
    simp [exec, execCmdEncode, State.whenIdle, hp]
  cases hm : s.msg with
  | none =>
    refine ⟨1, s.acceptEncode, haccept, rfl, rfl, ?_⟩
    simp [runSteps, step_encodeStart_of_no_msg (s := s.acceptEncode) rfl hh rfl hm]
  | some m =>
    have hs : EncodeRunning s.acceptCommand m := ⟨rfl, hh, hm⟩
    obtain ⟨k, t, hrun, hended⟩ := EncodeRuns.of_start hs s.sect s.idx
    refine ⟨k, s.acceptEncode, haccept, rfl, rfl, t, hrun, ?_⟩
    simp only [State.acceptCommand_params] at hended
    generalize encodeResult s.params m = r at hended
    cases hended with
    | completed c idx ctl out =>
      refine ⟨rfl, hm, rfl, rfl, rfl, rfl, rfl, rfl, rfl, rfl, fun a => ?_⟩
      exact (Memory.read_writeBytes s.obuf 0 out a).trans (by simp)
    | raised c idx ctl out e => exact ⟨rfl, hm, rfl, rfl, rfl, rfl, rfl, rfl, rfl, rfl, fun _ => rfl⟩

end Sys2Proof.Machine
end

section
/-! PROOF. The decoder and the encoder are inverse to each other (spec/30_encoding.md): a name element by the class of
its tag byte, a record type by its value, a command by the low byte of its word. -/

namespace Sys2Proof

/-- Every word splits into its high bits and its low bits. -/
theorem exists_eq_append {m n : Nat} (x : BitVec (m + n)) : ∃ (hi : BitVec m) (lo : BitVec n), x = hi ++ lo :=
  ⟨_, _, BitVec.extractLsb'_append_extractLsb'.symm⟩

/-! The tag byte: its class is the top two bits (R95). -/

/-- A tag byte in numbers. -/
theorem tag_toNat (c : BitVec 2) (l : BitVec 6) : (c ++ l : Byte).toNat = c.toNat * 64 + l.toNat := append_toNat c l

/-- A byte whose value is in the range of a class is of that class. -/
theorem exists_eq_class_append {t : Byte} (c : BitVec 2) (hlo : c.toNat * 64 ≤ t.toNat)
    (hhi : t.toNat < c.toNat * 64 + 64) : ∃ l : BitVec 6, t = c ++ l ∧ c.toNat * 64 + l.toNat = t.toNat := by
  obtain ⟨d, l, rfl⟩ := exists_eq_append (m := 2) (n := 6) t
  rw [tag_toNat] at hlo hhi
  have := l.isLt
  obtain rfl : d = c := BitVec.eq_of_toNat_eq (by omega)
  exact ⟨l, rfl, (tag_toNat d l).symm⟩

/-- The mask of the tag rows keeps the class and clears the low bits. -/
theorem tag_and_classMask (c : BitVec 2) (l : BitVec 6) : ((c ++ l : Byte) &&& 0xC0#8) = c ++ 0#6 := by
  have hand : ((c ++ l : Byte) &&& (0b11#2 ++ 0#6)) = (c &&& 0b11#2) ++ (l &&& 0#6) := BitVec.and_append
  have hones : c &&& 0b11#2 = c := BitVec.and_allOnes
  rwa [hones, BitVec.and_zero] at hand

/-- A tag byte passes the test of a row of class `d` exactly if its class is `d`. -/
theorem tag_and_classMask_eq_iff (c d : BitVec 2) (l : BitVec 6) :
    ((c ++ l : Byte) &&& 0xC0#8) = d ++ 0#6 ↔ c = d := by
  rw [tag_and_classMask, BitVec.append_left_inj]

/-- A tag byte is the root's exactly if its class and its low bits are 0. -/
theorem tag_eq_zero_iff (c : BitVec 2) (l : BitVec 6) : (c ++ l : Byte) = 0x00#8 ↔ c = 0#2 ∧ l = 0#6 := by
  simp only [← BitVec.toNat_inj, tag_toNat, BitVec.toNat_ofNat]
  omega

/-- The row a tag byte selects, by its class and its low bits. -/
theorem decodeTagByte_append (c : BitVec 2) (l : BitVec 6) :
    decodeTagByte (c ++ l) =
      if c = 0b00#2 ∧ l = 0#6 then some .nameTerm
      else if c = 0b00#2 then some (.nameLabel l)
      else if c = 0b01#2 then some (.nameExt01 l)
      else if c = 0b10#2 then some (.nameExt10 l)
      else none := by
  have hall : ((c ++ l : Byte) &&& 0xFF#8) = c ++ l := BitVec.and_allOnes
  have hlow : (c ++ l : Byte).extractLsb' 0 6 = l := BitVec.extractLsb'_append_eq_right
  have h00 : ((c ++ l : Byte) &&& 0xC0#8) = 0x00#8 ↔ c = 0b00#2 := tag_and_classMask_eq_iff c 0b00#2 l
  have h01 : ((c ++ l : Byte) &&& 0xC0#8) = 0x40#8 ↔ c = 0b01#2 := tag_and_classMask_eq_iff c 0b01#2 l
  have h10 : ((c ++ l : Byte) &&& 0xC0#8) = 0x80#8 ↔ c = 0b10#2 := tag_and_classMask_eq_iff c 0b10#2 l
  simp only [decodeTagByte, hall, hlow, h00, h01, h10, tag_eq_zero_iff]

/-- The tag bytes, one constructor for each row of the tag formats. -/
inductive TagByte : Byte → Prop where
  | term : TagByte 0x00#8
  | label (l : BitVec 6) (hl : l ≠ 0#6) : TagByte (0b00#2 ++ l)
  | ext01 (l : BitVec 6) : TagByte (0b01#2 ++ l)
  | ext10 (l : BitVec 6) : TagByte (0b10#2 ++ l)
  | pointer (l : BitVec 6) : TagByte (0b11#2 ++ l)

/-- Every byte is a tag byte of one of the rows. -/
theorem tagByte (t : Byte) : TagByte t := by
  obtain ⟨c, l, rfl⟩ := exists_eq_append (m := 2) (n := 6) t
  have classes : ∀ c : BitVec 2, c = 0b00#2 ∨ c = 0b01#2 ∨ c = 0b10#2 ∨ c = 0b11#2 := by decide
  obtain rfl | rfl | rfl | rfl := classes c
  · by_cases hl : l = 0#6
    · exact hl ▸ .term
    · exact .label l hl
  · exact .ext01 l
  · exact .ext10 l
  · exact .pointer l

/-! A name element from its bytes (R95, R97, R102, R103). -/

/-- An element of one byte is decoded whatever follows it. -/
theorem decode_tag_of_some {t : Byte} {i : Instr} (h : decodeTagByte t = some i) (rest : Bytes) :
    decode (.tag (t :: rest)) = .ok i := by
  simp [decode, decodeTag, h]

theorem decode_tag_term (rest : Bytes) : decode (.tag (0x00#8 :: rest)) = .ok .nameTerm := rfl

theorem decode_tag_label {l : BitVec 6} (hl : l ≠ 0#6) (rest : Bytes) :
    decode (.tag ((0b00#2 ++ l) :: rest)) = .ok (.nameLabel l) :=
  decode_tag_of_some (by simp [decodeTagByte_append, hl]) rest

theorem decode_tag_ext01 (l : BitVec 6) (rest : Bytes) :
    decode (.tag ((0b01#2 ++ l) :: rest)) = .ok (.nameExt01 l) :=
  decode_tag_of_some (by simp [decodeTagByte_append]) rest

theorem decode_tag_ext10 (l : BitVec 6) (rest : Bytes) :
    decode (.tag ((0b10#2 ++ l) :: rest)) = .ok (.nameExt10 l) :=
  decode_tag_of_some (by simp [decodeTagByte_append]) rest

/-- A pointer's first byte selects no row of one byte. -/
theorem decodeTagByte_pointer (l : BitVec 6) : decodeTagByte (0b11#2 ++ l) = none := by
  simp [decodeTagByte_append]

/-- The big-endian value of a pointer's two bytes, its class split off. -/
theorem u16_pointer (l : BitVec 6) (b1 : Byte) : u16 (0b11#2 ++ l) b1 = 0b11#2 ++ (l ++ b1 : BitVec 14) :=
  BitVec.append_assoc

/-- OFFSET is the low bits of the first byte followed by the second byte (R97, R102). -/
theorem decode_tag_pointer (l : BitVec 6) (b1 : Byte) (rest : Bytes) :
    decode (.tag ((0b11#2 ++ l) :: b1 :: rest)) = .ok (.namePtr (l ++ b1)) := by
  have hoff : decodePointer (0b11#2 ++ l) b1 = .namePtr (l ++ b1) := by
    rw [decodePointer, u16_pointer]
    exact congrArg Instr.namePtr BitVec.extractLsb'_append_eq_right
  simp [decode, decodeTag, decodeTagByte_pointer, hoff]

theorem decode_tag_pointer_alone (l : BitVec 6) : decode (.tag [0b11#2 ++ l]) = .error .noSecondByte := by
  simp [decode, decodeTag, decodeTagByte_pointer]

/-- The two bytes of a big-endian field, read back. -/
theorem be16_u16 (b0 b1 : Byte) : be16 (u16 b0 b1) = [b0, b1] := by
  have hhigh : (b0 ++ b1).extractLsb' 8 8 = b0 := BitVec.extractLsb'_append_eq_left
  have hlow : (b0 ++ b1).extractLsb' 0 8 = b1 := BitVec.extractLsb'_append_eq_right
  simp only [be16, u16, hhigh, hlow]

/-- A pointer is encoded in two bytes, OFFSET's high bits in the first. -/
theorem encode_namePtr (l : BitVec 6) (b1 : Byte) : encode (.namePtr (l ++ b1)) = .tag [0b11#2 ++ l, b1] := by
  rw [encode, ← u16_pointer, be16_u16]

/-! A record type (R109). -/

/-- A TYPE other than 1 and 5 is opaque. -/
theorem decodeRtype_opaque {t : U16} (ha : t ≠ 1#16) (hcname : t ≠ 5#16) : decodeRtype t = .rdOpaque t := by
  rw [decodeRtype, if_neg ha, if_neg hcname]

/-! A command word: its low byte selects (R105 to R107). -/

/-- The command a word selects, by its low byte. -/
theorem decodeCmd_append (x : BitVec 24) (o : Byte) :
    decodeCmd (x ++ o) =
      if o = 0x00#8 then .cmdNop x
      else if o = 0x01#8 then .cmdDecode x
      else if o = 0x02#8 then .cmdEncode x
      else .cmdIllegal x o := by
  have hhigh : (x ++ o : U32).extractLsb' 8 24 = x := BitVec.extractLsb'_append_eq_left
  have hlow : (x ++ o : U32).extractLsb' 0 8 = o := BitVec.extractLsb'_append_eq_right
  simp only [decodeCmd, hhigh, hlow]

theorem decode_cmd_nop (x : BitVec 24) : decode (.cmd (x ++ 0x00#8)) = .ok (.cmdNop x) :=
  congrArg Except.ok (decodeCmd_append x 0x00#8)

theorem decode_cmd_decode (x : BitVec 24) : decode (.cmd (x ++ 0x01#8)) = .ok (.cmdDecode x) :=
  congrArg Except.ok (decodeCmd_append x 0x01#8)

theorem decode_cmd_encode (x : BitVec 24) : decode (.cmd (x ++ 0x02#8)) = .ok (.cmdEncode x) :=
  congrArg Except.ok (decodeCmd_append x 0x02#8)

/-- An opcode other than 0, 1 and 2 is illegal (R107). -/
theorem decode_cmd_illegal (x : BitVec 24) {o : Byte} (hnop : o ≠ 0#8) (hdec : o ≠ 1#8) (henc : o ≠ 2#8) :
    decode (.cmd (x ++ o)) = .ok (.cmdIllegal x o) := by
  rw [decode, decodeCmd_append, if_neg hnop, if_neg hdec, if_neg henc]

/-! The statements. -/

/-- Settles O1: by cases on the row of the instruction; a well-formed operand is one that no earlier row takes. -/
theorem decodeOfEncodeIsIdentity : Obligations.DecodeOfEncodeIsIdentity := by
  intro i hwf
  cases i with
  | nameTerm => exact decode_tag_term []
  | nameLabel len => exact decode_tag_label (by simpa [Instr.wellFormed] using hwf) []
  | nameExt01 low => exact decode_tag_ext01 low []
  | nameExt10 low => exact decode_tag_ext10 low []
  | namePtr off =>
    obtain ⟨l, b1, rfl⟩ := exists_eq_append (m := 6) (n := 8) off
    rw [encode_namePtr, decode_tag_pointer]
  | rdA => rfl
  | rdCname => rfl
  | rdOpaque t =>
    obtain ⟨ha, hcname⟩ : t ≠ 1#16 ∧ t ≠ 5#16 := by simpa [Instr.wellFormed] using hwf
    exact congrArg Except.ok (decodeRtype_opaque ha hcname)
  | cmdNop x => exact decode_cmd_nop x
  | cmdDecode x => exact decode_cmd_decode x
  | cmdEncode x => exact decode_cmd_encode x
  | cmdIllegal x o =>
    obtain ⟨⟨hnop, hdec⟩, henc⟩ : (o ≠ 0#8 ∧ o ≠ 1#8) ∧ o ≠ 2#8 := by simpa [Instr.wellFormed] using hwf
    exact decode_cmd_illegal x hnop hdec henc

/-- What a command word decodes to is well-formed and encodes to the word. -/
theorem encode_decodeCmd (v : U32) : (decodeCmd v).wellFormed = true ∧ encode (decodeCmd v) = .cmd v := by
  obtain ⟨x, o, rfl⟩ := exists_eq_append (m := 24) (n := 8) v
  rw [decodeCmd_append]
  split_ifs with hnop hdec henc
  · exact ⟨rfl, hnop ▸ rfl⟩
  · exact ⟨rfl, hdec ▸ rfl⟩
  · exact ⟨rfl, henc ▸ rfl⟩
  · exact ⟨by simp [Instr.wellFormed, hnop, hdec, henc], rfl⟩

/-- What a TYPE decodes to is well-formed and encodes to the TYPE. -/
theorem encode_decodeRtype (t : U16) : (decodeRtype t).wellFormed = true ∧ encode (decodeRtype t) = .rtype t := by
  by_cases ha : t = 1#16
  · exact ha ▸ ⟨rfl, rfl⟩
  by_cases hcname : t = 5#16
  · exact hcname ▸ ⟨rfl, rfl⟩
  rw [decodeRtype_opaque ha hcname]
  exact ⟨by simp [Instr.wellFormed, ha, hcname], rfl⟩

/-- What a tag's bytes decode to is well-formed and encodes to the bytes of the element, at their front. -/
theorem encode_of_decode_tag {bs : Bytes} {i : Instr} (h : decode (.tag bs) = .ok i) :
    i.wellFormed = true ∧ ∃ first rest, bs = first ++ rest ∧ encode i = .tag first := by
  cases bs with
  | nil => cases h
  | cons t rest =>
    cases tagByte t with
    | term =>
      cases (decode_tag_term rest).symm.trans h
      exact ⟨rfl, [_], rest, rfl, rfl⟩
    | label l hl =>
      cases (decode_tag_label hl rest).symm.trans h
      exact ⟨by simp [Instr.wellFormed, hl], [_], rest, rfl, rfl⟩
    | ext01 l =>
      cases (decode_tag_ext01 l rest).symm.trans h
      exact ⟨rfl, [_], rest, rfl, rfl⟩
    | ext10 l =>
      cases (decode_tag_ext10 l rest).symm.trans h
      exact ⟨rfl, [_], rest, rfl, rfl⟩
    | pointer l =>
      cases rest with
      | nil => cases (decode_tag_pointer_alone l).symm.trans h
      | cons b1 rest =>
        cases (decode_tag_pointer l b1 rest).symm.trans h
        exact ⟨rfl, [_, b1], rest, rfl, encode_namePtr l b1⟩

/-- Settles O2: a format at a time. -/
theorem encodeOfDecodeIsIdentity : Obligations.EncodeOfDecodeIsIdentity :=
  ⟨encode_decodeCmd, encode_decodeRtype, fun _ _ => encode_of_decode_tag⟩

/-- Settles O3: the range of the tag's value fixes its class, which leaves the value of its low bits. -/
theorem tagByteSelectsElementClass : Obligations.TagByteSelectsElementClass := by
  intro t b1 rest
  refine ⟨fun h => ?_, fun hlo hhi => ?_, fun hlo hhi => ?_, fun hlo hhi => ?_, fun hlo => ?_⟩
  · obtain rfl : t = 0x00#8 := BitVec.eq_of_toNat_eq h
    exact decode_tag_term rest
  · obtain ⟨l, rfl, hval⟩ := exists_eq_class_append 0b00#2 (Nat.zero_le t.toNat) (Nat.lt_succ_of_le hhi)
    have hl : l ≠ 0#6 := by
      rintro rfl
      exact absurd hlo (by decide)
    exact ⟨l, decode_tag_label hl rest, by simpa using hval⟩
  · obtain ⟨l, rfl, hval⟩ := exists_eq_class_append 0b01#2 hlo (Nat.lt_succ_of_le hhi)
    exact ⟨l, decode_tag_ext01 l rest, hval⟩
  · obtain ⟨l, rfl, hval⟩ := exists_eq_class_append 0b10#2 hlo (Nat.lt_succ_of_le hhi)
    exact ⟨l, decode_tag_ext10 l rest, hval⟩
  · obtain ⟨l, rfl, hval⟩ := exists_eq_class_append 0b11#2 hlo t.isLt
    refine ⟨decode_tag_pointer_alone l, l ++ b1, decode_tag_pointer l b1 rest, ?_⟩
    have hclass : (0b11#2).toNat = 3 := rfl
    have hoff : (l ++ b1).toNat = l.toNat * 256 + b1.toNat := append_toNat l b1
    have := (l ++ b1).isLt
    omega

/-- Settles O4: bits 31:8 of a word weigh a multiple of 256. -/
theorem lowByteSelectsCommand : Obligations.LowByteSelectsCommand := by
  intro v
  obtain ⟨x, o, rfl⟩ := exists_eq_append (m := 24) (n := 8) v
  have hlow : (x ++ o : U32).toNat % 256 = o.toNat := by
    rw [append_toNat]
    have := o.isLt
    omega
  rw [hlow]
  refine ⟨fun h => ⟨x, ?_⟩, fun h => ⟨x, ?_⟩, fun h => ⟨x, ?_⟩, fun h => ⟨x, o, ?_, rfl⟩⟩
  · obtain rfl : o = 0x00#8 := BitVec.eq_of_toNat_eq h
    exact decode_cmd_nop x
  · obtain rfl : o = 0x01#8 := BitVec.eq_of_toNat_eq h
    exact decode_cmd_decode x
  · obtain rfl : o = 0x02#8 := BitVec.eq_of_toNat_eq h
    exact decode_cmd_encode x
  · have hne : ∀ k : Byte, k.toNat < 3 → o ≠ k := by
      rintro k hk rfl
      omega
    exact decode_cmd_illegal x (hne 0#8 (by decide)) (hne 1#8 (by decide)) (hne 2#8 (by decide))

/-- Settles O5: each word is decoded by evaluation. -/
theorem sampleWordsDecodeRight : Obligations.SampleWordsDecodeRight := by
  unfold Obligations.SampleWordsDecodeRight
  decide

end Sys2Proof
end

section
/-! PROOF. The scanner (spec/40_buffer_scanner.md R131 to R137): what RDSLICE does, the fixed-width reads as RDSLICE
of their bytes, and that a DECODE sees IBUF through the scanner alone. -/

namespace Sys2Proof.Machine

/-- A slice inside LEN is the bytes IBUF holds there, none of them for an empty slice at LEN. -/
theorem rdSlice_of_holds {e : Input} {a : Nat} {bs : Bytes} {why : MalReason} (h : e.ibuf.holds a bs)
    (hle : a + bs.length ≤ e.len) : rdSlice e a bs.length why = .ok bs := by
  rw [rdSlice, if_pos ((inb_iff e a bs.length).mpr hle)]
  exact ibRange_of_read h

/-- A slice that passes LEN is the caller's error at its first byte, whatever its bytes are. -/
theorem rdSlice_past_len {e : Input} {a n : Nat} {why : MalReason} (h : e.len < a + n) :
    rdSlice e a n why = .err (.malformed why a) :=
  if_neg fun hin => Nat.not_le.mpr h ((inb_iff e a n).mp hin)

/-- The read of a range stops at its first unwritten byte. -/
theorem ibRange_unwritten {e : Input} {a n k : Nat} (hk : k < n) (h : e.ibuf.read (a + k) = none) :
    ibRange e a n = .fault .uninitRead := by
  induction n generalizing a k with
  | zero => exact absurd hk (Nat.not_lt_zero k)
  | succ n ih =>
    cases hread : e.ibuf.read a with
    | none => simp [ibRange, ib, hread]
    | some b =>
      have hrest : ibRange e (a + 1) n = .fault .uninitRead := by
        cases k with
        | zero => simp [hread] at h
        | succ k => exact ih (Nat.lt_of_succ_lt_succ hk) (by rwa [Nat.add_right_comm])
      simp [ibRange, hrest, ib, hread]

/-- A slice inside LEN with an unwritten byte is the model fault. -/
theorem rdSlice_unwritten {e : Input} {a n k : Nat} {why : MalReason} (hle : a + n ≤ e.len) (hk : k < n)
    (h : e.ibuf.read (a + k) = none) : rdSlice e a n why = .fault .uninitRead := by
  rw [rdSlice, if_pos ((inb_iff e a n).mpr hle)]
  exact ibRange_unwritten hk h

/-- How a chain of procedures is grouped does not matter. -/
theorem Res.andThen_assoc {α β γ : Type} (r : Res α) (k : α → Res β) (l : β → Res γ) :
    (r.andThen k).andThen l = r.andThen fun a => (k a).andThen l := by
  cases r <;> rfl

/-- Coding a result by an injective function loses nothing. -/
theorem Res.andThen_ok_inj {α β : Type} {f : α → β} (hf : f.Injective) {r s : Res α} :
    (r.andThen fun a => .ok (f a)) = (s.andThen fun a => .ok (f a)) ↔ r = s := by
  cases r <;> cases s <;> simp [hf.eq_iff]

theorem be16_injective : be16.Injective := fun v w h => by
  simp only [be16, List.cons.injEq] at h
  obtain ⟨hhi, hlo, -⟩ := h
  rw [← u16_be16 v, ← u16_be16 w, hhi, hlo]

theorem be32_injective : be32.Injective := fun v w h => by
  simp only [be32, List.cons.injEq] at h
  obtain ⟨h24, h16, h8, h0, -⟩ := h
  rw [← u32_be32 v, ← u32_be32 w, h24, h16, h8, h0]

/-- The bytes of a 32-bit field are those it was read from. -/
theorem be32_u32 (b0 b1 b2 b3 : Byte) : be32 (u32 b0 b1 b2 b3) = [b0, b1, b2, b3] := by
  have := b0.isLt
  have := b1.isLt
  have := b2.isLt
  have := b3.isLt
  simp only [be32, List.cons.injEq, and_true]
  refine ⟨?_, ?_, ?_, ?_⟩
  all_goals
    apply BitVec.eq_of_toNat_eq
    rw [extract_toNat, u32_toNat]
    omega

/-! The slice of a fixed width is the value read at that width, spelled most significant byte first: the error and
the fault are the same. -/

theorem rdSlice_one (e : Input) (a : Nat) (why : MalReason) :
    rdSlice e a 1 why = (rd8 e a why).andThen fun b => .ok [b] := by
  unfold rdSlice rd8
  split_ifs
  · simp [ibRange]
  · rfl

theorem rdSlice_two (e : Input) (a : Nat) (why : MalReason) :
    rdSlice e a 2 why = (rd16 e a why).andThen fun v => .ok (be16 v) := by
  unfold rdSlice rd16
  split_ifs
  · simp [ibRange, Res.andThen_assoc, be16_u16]
  · rfl

theorem rdSlice_four (e : Input) (a : Nat) (why : MalReason) :
    rdSlice e a 4 why = (rd32 e a why).andThen fun v => .ok (be32 v) := by
  unfold rdSlice rd32
  split_ifs
  · simp [ibRange, Res.andThen_assoc, be32_u32]
  · rfl

/-- RD8 is RDSLICE of one byte: value, error and fault alike. -/
theorem rd8_eq_iff {e : Input} {a : Nat} {why : MalReason} {r : Res Byte} :
    rd8 e a why = r ↔ rdSlice e a 1 why = r.andThen fun b => .ok [b] := by
  rw [rdSlice_one, Res.andThen_ok_inj List.singleton_injective]

/-- RD16 is RDSLICE of two bytes. -/
theorem rd16_eq_iff {e : Input} {a : Nat} {why : MalReason} {r : Res U16} :
    rd16 e a why = r ↔ rdSlice e a 2 why = r.andThen fun v => .ok (be16 v) := by
  rw [rdSlice_two, Res.andThen_ok_inj be16_injective]

/-- RD32 is RDSLICE of four bytes. -/
theorem rd32_eq_iff {e : Input} {a : Nat} {why : MalReason} {r : Res U32} :
    rd32 e a why = r ↔ rdSlice e a 4 why = r.andThen fun v => .ok (be32 v) := by
  rw [rdSlice_four, Res.andThen_ok_inj be32_injective]

/-- Settles O8: the fixed-width reads are slices of one, two and four bytes. -/
theorem scannerReadsAreBoundsChecked : Obligations.ScannerReadsAreBoundsChecked := by
  intro e a why
  refine ⟨fun b0 h hle => ?_, fun hlt => ?_, fun b0 b1 h hle => ⟨u16 b0 b1, ?_, u16_toNat b0 b1⟩, fun hlt => ?_,
    fun b0 b1 b2 b3 h hle => ⟨u32 b0 b1 b2 b3, ?_, u32_toNat b0 b1 b2 b3⟩, fun hlt => ?_,
    fun bs h hle => rdSlice_of_holds h hle, fun n hlt => rdSlice_past_len hlt⟩
  · exact rd8_eq_iff.mpr (rdSlice_of_holds h hle)
  · exact rd8_eq_iff.mpr (rdSlice_past_len hlt)
  · rw [rd16_eq_iff, Res.andThen_ok, be16_u16]
    exact rdSlice_of_holds h hle
  · exact rd16_eq_iff.mpr (rdSlice_past_len hlt)
  · rw [rd32_eq_iff, Res.andThen_ok, be32_u32]
    exact rdSlice_of_holds h hle
  · exact rd32_eq_iff.mpr (rdSlice_past_len hlt)

/-- Settles O9: a slice faults at its first unwritten byte, and the fixed-width reads are slices. -/
theorem unwrittenByteInsideLenFaults : Obligations.UnwrittenByteInsideLenFaults := by
  intro e a n k why hk hle hread
  have hslice : rdSlice e a n why = .fault .uninitRead := rdSlice_unwritten hle hk hread
  refine ⟨hslice, ?_, ?_, ?_⟩
  · rintro rfl
    exact rd8_eq_iff.mpr hslice
  · rintro rfl
    exact rd16_eq_iff.mpr hslice
  · rintro rfl
    exact rd32_eq_iff.mpr hslice

-- ---------------------------------------------------------------- two inputs that agree below LEN

section
variable {e f : Input} (h : sameBelowLen e f)
include h

theorem sameBelowLen.len_eq : e.len = f.len := h.1

theorem sameBelowLen.params_eq : e.params = f.params := h.2.1

/-- A range inside LEN reads the same. -/
theorem sameBelowLen.ibRange_eq {a n : Nat} (hle : a + n ≤ e.len) : ibRange e a n = ibRange f a n := by
  induction n generalizing a with
  | zero => rfl
  | succ n ih =>
    obtain ⟨-, -, hread⟩ := h
    simp only [ibRange, ib, hread a (by omega), ih (a := a + 1) (by omega)]

theorem sameBelowLen.rdSlice_eq (a n : Nat) (why : MalReason) : rdSlice e a n why = rdSlice f a n why := by
  by_cases hle : a + n ≤ e.len
  · simp only [rdSlice, inb, ← h.len_eq, h.ibRange_eq hle]
  · rw [rdSlice_past_len (Nat.not_le.mp hle), rdSlice_past_len (h.len_eq ▸ Nat.not_le.mp hle)]

theorem sameBelowLen.rd8_eq (a : Nat) (why : MalReason) : rd8 e a why = rd8 f a why := by
  rw [rd8_eq_iff, h.rdSlice_eq, rdSlice_one]

theorem sameBelowLen.rd16_eq (a : Nat) (why : MalReason) : rd16 e a why = rd16 f a why := by
  rw [rd16_eq_iff, h.rdSlice_eq, rdSlice_two]

theorem sameBelowLen.rd32_eq (a : Nat) (why : MalReason) : rd32 e a why = rd32 f a why := by
  rw [rd32_eq_iff, h.rdSlice_eq, rdSlice_four]

theorem sameBelowLen.labelStep_eq (n : NameRegs) (size : Nat) : labelStep e n size = labelStep f n size := by
  simp only [labelStep, h.rdSlice_eq, h.params_eq]

theorem sameBelowLen.extStep_eq (n : NameRegs) (tag : Nat) : extStep e n tag = extStep f n tag := by
  simp only [extStep, h.labelStep_eq, h.params_eq]

theorem sameBelowLen.pointerStep_eq (n : NameRegs) (off : Nat) : pointerStep e n off = pointerStep f n off := by
  simp only [pointerStep, h.len_eq, h.params_eq]

/-- DEC_NAME reads by RD8 and its element steps; its bound is of LEN and PTR_LIMIT. -/
theorem sameBelowLen.decName_eq (start : Nat) : decName e start = decName f start := by
  have loop (fuel : Nat) (n : NameRegs) : decNameLoop e fuel n = decNameLoop f fuel n := by
    induction fuel generalizing n with
    | zero => rfl
    | succ fuel ih =>
      simp only [decNameLoop, h.rd8_eq, h.pointerStep_eq, h.labelStep_eq, h.extStep_eq, ih]
  simp only [decName, nameBound, loop, h.len_eq, h.params_eq]

theorem sameBelowLen.readBody_eq (p rdlen : Nat) : readBody e p rdlen = readBody f p rdlen := by
  simp only [readBody, h.rdSlice_eq, h.params_eq]

theorem sameBelowLen.decRdata_eq (rtype : U16) (rdlen p : Nat) :
    decRdata e rtype rdlen p = decRdata f rtype rdlen p := by
  simp only [decRdata, h.decName_eq, h.readBody_eq]

theorem sameBelowLen.decHeader_eq : decHeader e = decHeader f := by
  simp only [decHeader, h.rd16_eq]

theorem sameBelowLen.decQuestion_eq : decQuestion e = decQuestion f := by
  funext p
  simp only [decQuestion, h.decName_eq, h.rd16_eq]

theorem sameBelowLen.decRecord_eq : decRecord e = decRecord f := by
  funext p
  simp only [decRecord, h.decName_eq, h.rd16_eq, h.rd32_eq, h.decRdata_eq]

/-- DEC_SECTION itself looks at REC_CAP alone. -/
theorem sameBelowLen.decSection_eq {α : Type} (dec : Nat → Proc (α × Nat)) (left idx cur : Nat) :
    decSection e dec left idx cur = decSection f dec left idx cur := by
  induction left generalizing idx cur with
  | zero => rfl
  | succ left ih => simp only [decSection, h.params_eq, ih]

theorem sameBelowLen.decodeMsg_eq : decodeMsg e = decodeMsg f := by
  simp only [decodeMsg, h.decHeader_eq, h.decQuestion_eq, h.decRecord_eq, h.decSection_eq]

end

/-- Settles O32: two inputs that agree below LEN give the same slices, hence the same reads, names, records and
sections. -/
theorem decodeDependsOnlyOnBytesBelowLen : Obligations.DecodeDependsOnlyOnBytesBelowLen := by
  intro e f h
  simp only [decodeResult, h.len_eq, h.params_eq, h.decodeMsg_eq]

end Sys2Proof.Machine
end

section
/-! PROOF. The name elements on the machine: what the fetch at P reads, and what each of the five tag rows then does
(spec/41_name_codec.md R151 to R155). -/

namespace Sys2Proof.Machine

/-! What a buffer holds. -/

theorem Memory.holds_cons {m : Memory} {a : Nat} {b : Byte} {bs : Bytes} :
    m.holds a (b :: bs) ↔ m.read a = some b ∧ m.holds (a + 1) bs := by
  constructor
  · intro h
    exact ⟨h 0 (by simp), fun k hk => by
      simpa [Nat.add_assoc, Nat.add_comm 1 k] using h (k + 1) (Nat.succ_lt_succ hk)⟩
  · rintro ⟨hb, h⟩ k hk
    cases k with
    | zero => simpa using hb
    | succ k => simpa [Nat.add_assoc, Nat.add_comm 1 k] using h k (Nat.lt_of_succ_lt_succ hk)

theorem Memory.holds_append {m : Memory} {a : Nat} {bs cs : Bytes} :
    m.holds a (bs ++ cs) ↔ m.holds a bs ∧ m.holds (a + bs.length) cs := by
  induction bs generalizing a with
  | nil => simp [Memory.holds]
  | cons b bs ih => simp [Memory.holds_cons, ih, and_assoc, Nat.add_assoc, Nat.add_comm 1]

theorem Memory.holds_singleton {m : Memory} {a : Nat} {b : Byte} : m.holds a [b] ↔ m.read a = some b := by
  simp [Memory.holds]

/-! The fetch. -/

/-- RD8 of a written byte inside LEN. -/
theorem rd8_of_read {e : Input} {a : Nat} {b : Byte} {why : MalReason} (h : e.ibuf.read a = some b)
    (hlt : a < e.len) : rd8 e a why = .ok b :=
  rd8_eq_iff.mpr (rdSlice_of_holds (bs := [b]) (Memory.holds_singleton.mpr h) hlt)

/-- RD8 at or past LEN. -/
theorem rd8_past_len {e : Input} {a : Nat} {why : MalReason} (h : e.len ≤ a) :
    rd8 e a why = .err (.malformed why a) :=
  rd8_eq_iff.mpr (rdSlice_past_len (Nat.lt_succ_of_le h))

/-- The fetch at P gives what the bytes there decode to. -/
theorem fetchElement_of_decode {e : Input} {p : Nat} {bs : Bytes} {i : Instr} (hbs : e.ibuf.holds p bs)
    (hle : p + bs.length ≤ e.len) (h : decode (.tag bs) = .ok i) : fetchElement e p = .ok i := by
  cases bs with
  | nil => cases h
  | cons t rest =>
    obtain ⟨ht, hrest⟩ := Memory.holds_cons.mp hbs
    rw [List.length_cons] at hle
    rw [fetchElement, rd8_of_read ht (by omega), Res.andThen_ok]
    cases htag : decodeTagByte t with
    | some j => simpa [decode, decodeTag, htag] using h
    | none =>
      cases rest with
      | nil => simp [decode, decodeTag, htag] at h
      | cons b1 rest =>
        rw [List.length_cons] at hle
        have hb1 : rd8 e (p + 1) .nameUnterm = .ok b1 := rd8_of_read (Memory.holds_cons.mp hrest).1 (by omega)
        simpa [decode, decodeTag, htag, hb1] using h

/-- A fetch at or past LEN finds no tag. -/
theorem fetchElement_past_len {e : Input} {p : Nat} (h : e.len ≤ p) :
    fetchElement e p = .err (.malformed .nameUnterm p) := by
  rw [fetchElement, rd8_past_len h, Res.andThen_err]

/-- The fetch of a pointer whose second byte lies past LEN. -/
theorem fetchElement_pointer_alone {e : Input} {p : Nat} {l : BitVec 6} (h : e.ibuf.read p = some (0b11#2 ++ l))
    (hlen : e.len = p + 1) : fetchElement e p = .err (.malformed .nameUnterm (p + 1)) := by
  rw [fetchElement, rd8_of_read h (by omega), Res.andThen_ok, decodeTagByte_pointer, rd8_past_len hlen.le]
  rfl

/-! The machine's step at a name element. -/

/-- At a name element the machine runs what the fetch at P decodes. -/
theorem step_of_fetched {s u : State} {i : Instr} (hu : s.engineState = some u) (hc : u.ctl = .name)
    (h : fetchElement u.input u.name.p = .ok i) : step s = exec i u := by
  simp [step_of_engineState hu, State.engine, hc, State.elementTurn, h, Fetched.result]

/-- A fetch that fails enters its error. -/
theorem step_of_fetch_error {s u : State} {e : Err} (hu : s.engineState = some u) (hc : u.ctl = .name)
    (h : fetchElement u.input u.name.p = .err e) : step s = .next (u.raise .decode e) := by
  simp [step_of_engineState hu, State.engine, hc, State.elementTurn, h, Fetched.result]

/-- A write of CMD runs the command it selects, in either phase. -/
theorem busWrite_cmd (s : State) (v : U32) : (s.busWrite 0x00#18 .w32 v).result = exec (decodeCmd v) s := by
  have hdef : accessDefined 0x00#18 .w32 = true := by decide
  have hreg : region 0x00#18 = .registers := by decide
  simp [State.busWrite, hdef, hreg, Fetched.result]

/-- Settles O6: the fetch at P, the TYPE register and the CMD write each give the instruction their coded word
decodes to. -/
theorem stepRunsDecodedInstruction : Obligations.StepRunsDecodedInstruction := by
  refine ⟨fun s u bs i hu hc hbs hle h => ?_, fun s u i hu hc h => ?_, fun s v rest i hh h => ?_⟩
  · exact step_of_fetched hu hc (fetchElement_of_decode hbs hle h)
  · cases h
    simp [step_of_engineState hu, State.engine, hc, Fetched.result]
  · cases h
    rw [step_of_busWrite hh, busWrite_cmd]

/-- Settles O14: the fetch fails at P, and the invariant keeps P at most LEN. -/
theorem tagFetchAtLenIsUnterminated : Obligations.TagFetchAtLenIsUnterminated := by
  intro s u hu hc hle
  exact ⟨step_of_fetch_error hu hc (fetchElement_past_len hle),
    fun hinv => Nat.le_antisymm (hinv.segmentBound hc) hle⟩

/-! The terminator. -/

/-- An owner name goes to its question or record. -/
theorem State.returnName_owner {s : State} (h : s.use = .owner) (nm : DomainName) (next : Nat) :
    s.returnName nm next = { s with
      recd := { s.recd with name := nm }
      cur := next
      ctl := if s.sect = .question then .qtype else .rtype } := by
  simp [State.returnName, h]

/-- A Cname completes its record. -/
theorem State.returnName_cname {s : State} (h : s.use = .cname) (nm : DomainName) (next : Nat) :
    s.returnName nm next = s.finishRecord s.recd.rtype (.cname nm) next := by
  simp [State.returnName, h]

/-- Settles O10: by the caller that takes the name. -/
theorem nameTermReturnsTheName : Obligations.NameTermReturnsTheName := by
  rintro s _ rfl
  refine ⟨fun huse => ?_, fun huse => ?_⟩
  · rw [exec, execNameTerm, State.returnName_owner]
    · rfl
    · exact huse
  · rw [exec, execNameTerm, State.returnName_cname]
    · rfl
    · exact huse

/-! Labels. -/

/-- A label whose body passes LEN is refused at the body's first byte. -/
theorem labelStep_past_len {e : Input} {n : NameRegs} {size : Nat} (h : e.len < n.p + 1 + size) :
    labelStep e n size = .err (.malformed .sliceTrunc (n.p + 1)) := by
  rw [labelStep, rdSlice_past_len h, Res.andThen_err]

/-- A label inside LEN joins the name exactly if the name stays within NAME_CAP. -/
theorem labelStep_of_holds {e : Input} {n : NameRegs} {lab : Label} (h : e.ibuf.holds (n.p + 1) lab)
    (hle : n.p + 1 + lab.length ≤ e.len) :
    labelStep e n lab.length =
      if within (enclen (n.acc ++ [lab])) e.params.nameCap then
        .ok { n with acc := n.acc ++ [lab], p := n.p + 1 + lab.length }
      else .err (.capacity .name n.p) := by
  rw [labelStep, rdSlice_of_holds h hle, Res.andThen_ok]

/-- What the machine's label step with length `size` does (R153). -/
structure LabelMove (s : State) (size : Nat) (r : Result) : Prop where
  truncated : s.len < s.name.p + 1 + size → r = .next (s.raise .decode (.malformed .sliceTrunc (s.name.p + 1)))
  inside : ∀ lab : Label, lab.length = size → s.name.p + 1 + size ≤ s.len → s.ibuf.holds (s.name.p + 1) lab →
    ((∀ cap, s.params.nameCap = some cap → enclen (s.name.acc ++ [lab]) ≤ cap) →
      r = .next { s with name := { s.name with acc := s.name.acc ++ [lab], p := s.name.p + 1 + size } }) ∧
    (∀ cap, s.params.nameCap = some cap → cap < enclen (s.name.acc ++ [lab]) →
      r = .next (s.raise .decode (.capacity .name s.name.p)))

/-- The label step as a step of the machine, by the outcomes of RDSLICE and of the NAME_CAP check. -/
theorem nameStep_labelStep (s : State) (size : Nat) :
    LabelMove s size (s.nameStep (labelStep s.input s.name size)) := by
  constructor
  · intro h
    rw [labelStep_past_len h]
    rfl
  · rintro lab rfl hle hlab
    rw [labelStep_of_holds hlab hle, State.input_params]
    refine ⟨fun hcap => ?_, fun cap hcap hlt => ?_⟩
    · rw [if_pos ((within_iff _ _).mpr hcap)]
      rfl
    · rw [if_neg fun hw => Nat.not_le.mpr hlt ((within_iff _ _).mp hw cap hcap)]
      rfl

/-- Settles O11: NAME_LABEL is the label step with the tag's value. -/
theorem nameLabelAppendsTheLabel : Obligations.NameLabelAppendsTheLabel := fun s len =>
  have h : LabelMove s len.toNat (exec (.nameLabel len) s) := nameStep_labelStep s len.toNat
  ⟨h.truncated, h.inside⟩

/-- Settles O12: both rows are the extended-tag step with the whole tag value, which AS_LENGTH makes a label step. -/
theorem extendedTagsFollowThePolicy : Obligations.ExtendedTagsFollowThePolicy := by
  intro s low tag i hi
  have hexec : exec i s = s.nameStep (extStep s.input s.name tag) := by
    rcases hi with ⟨rfl, rfl⟩ | ⟨rfl, rfl⟩ <;> rfl
  have hlabel (hp : s.params.extTagPolicy = .asLength) : LabelMove s tag (exec i s) := by
    have hext : extStep s.input s.name tag = labelStep s.input s.name tag := by simp [extStep, hp]
    rw [hexec, hext]
    exact nameStep_labelStep s tag
  refine ⟨fun hp => ?_, fun hp => (hlabel hp).truncated, fun hp => (hlabel hp).inside⟩
  rw [hexec]
  simp [extStep, hp, State.nameStep, State.decodeStep]

/-! The pointer. -/

/-- A target outside the message. -/
theorem pointerStep_outside {e : Input} {off : Nat} (n : NameRegs) (h : e.len ≤ off) :
    pointerStep e n off = .err (.malformed .ptrRange n.p) := if_pos h

/-- A target inside the message when PTR_LIMIT pointers have been followed. -/
theorem pointerStep_limit {e : Input} {n : NameRegs} {off : Nat} (h : off < e.len)
    (hhops : e.params.ptrLimit ≤ n.hops) : pointerStep e n off = .err (.malformed .ptrLimit n.p) := by
  rw [pointerStep, if_neg (Nat.not_le.mpr h), if_neg (Nat.not_lt.mpr hhops)]

/-- A target inside the message while fewer have been followed. -/
theorem pointerStep_jumps {e : Input} {n : NameRegs} {off : Nat} (h : off < e.len)
    (hhops : n.hops < e.params.ptrLimit) :
    pointerStep e n off = .ok { n with fin := some (n.fieldEnd 2), hops := n.hops + 1, p := off } := by
  rw [pointerStep, if_neg (Nat.not_le.mpr h), if_pos hhops]

/-- Settles O13: the fetch misses the second byte; with it, the target and then the limit are checked. -/
theorem namePointerJumpsOrFails : Obligations.NamePointerJumpsOrFails := by
  refine ⟨fun s u t hu hc ht hclass hlen => ?_, fun s off => ?_⟩
  · obtain ⟨l, rfl, -⟩ := exists_eq_class_append 0b11#2 hclass (Nat.lt_of_lt_of_le t.isLt (by decide))
    exact step_of_fetch_error hu hc (fetchElement_pointer_alone (Memory.holds_singleton.mp ht) hlen)
  · have hexec : exec (.namePtr off) s = s.nameStep (pointerStep s.input s.name off.toNat) := rfl
    rw [hexec]
    refine ⟨fun hout => ?_, fun hin hhops => ?_, fun hin hhops => ?_⟩
    · rw [pointerStep_outside s.name hout]
      rfl
    · rw [pointerStep_limit hin hhops.ge]
      rfl
    · rw [pointerStep_jumps hin hhops]
      rfl

/-! The frame. -/

/-- NAME_LABEL, NAME_EXT_01, NAME_EXT_10 and NAME_PTR are element steps that continue the name or enter an error. -/
theorem exec_continuing {i : Instr} {len low : BitVec 6} {off : BitVec 14}
    (hi : i = .nameLabel len ∨ i = .nameExt01 low ∨ i = .nameExt10 low ∨ i = .namePtr off) (s : State) :
    ∃ r, exec i s = s.nameStep r := by
  rcases hi with rfl | rfl | rfl | rfl <;> exact ⟨_, rfl⟩

/-- Settles O15: NAME_TERM is `State.returnName`; the other rows write the name registers or enter an error. -/
theorem nameElementFrame : Obligations.NameElementFrame := by
  intro i s t len low off hi h
  rcases hi with rfl | hi
  · obtain rfl : _ = t := Host.Outcome.next.inj h
    simp
  · obtain ⟨r, hr⟩ := exec_continuing hi s
    rcases nameStep_next (hr ▸ h) with ⟨n, -, rfl⟩ | ⟨e, rfl⟩
    · simp
    · exact ⟨by simp, .inl ⟨e, rfl⟩⟩

end Sys2Proof.Machine
end

section
/-! PROOF. ENC_NAME gives the spelling of the name, or the error of its first label that is too long
(spec/41_name_codec.md R161, R162). -/

namespace Sys2Proof.Machine

/-- A label on the wire: its length byte, then its bytes. -/
def wireLabel (l : Label) : Bytes := BitVec.ofNat 8 l.length :: l

/-- The labels of a name spelled in full, without the terminator. -/
def spelling (n : DomainName) : Bytes := n.flatMap wireLabel

@[simp] theorem wireLabel_length (l : Label) : (wireLabel l).length = 1 + l.length := by
  simp [wireLabel, Nat.add_comm]

@[simp] theorem spelling_nil : spelling [] = [] := rfl

@[simp] theorem spelling_cons (l : Label) (n : DomainName) : spelling (l :: n) = wireLabel l ++ spelling n := rfl

/-- A name's encoded length is its spelling's, and one byte for the terminator. -/
theorem enclen_eq_spelling_length (n : DomainName) : enclen n = (spelling n).length + 1 := by
  induction n with
  | nil => rfl
  | cons l n ih =>
    rw [enclen, ih, spelling_cons, List.length_append, wireLabel_length]
    omega

/-- The terminator is counted once. -/
theorem enclen_append (m n : DomainName) : enclen (m ++ n) = (spelling m).length + enclen n := by
  simp [enclen_eq_spelling_length, spelling, Nat.add_assoc]

/-- A name whose labels fit LABEL_ENC_MAX encodes to its spelling and the terminator, at every offset. -/
theorem encName_of_fits {max : LabelEncMax} {n : DomainName} (h : ∀ l ∈ n, l.length ≤ labelMax max) (base : Nat) :
    encName max n base = .ok (spelling n ++ [0x00#8]) := by
  induction n generalizing base with
  | nil => rfl
  | cons l n ih =>
    obtain ⟨hl, hn⟩ := List.forall_mem_cons.mp h
    simp [encName, Nat.not_lt.mpr hl, ih hn, wireLabel]

/-- A name that encodes gives its spelling and the terminator. -/
theorem encName_eq_ok {max : LabelEncMax} {n : DomainName} {base : Nat} {bs : Bytes}
    (h : encName max n base = .ok bs) : bs = spelling n ++ [0x00#8] := by
  induction n generalizing base bs with
  | nil =>
    cases h
    rfl
  | cons l n ih =>
    rw [encName] at h
    split_ifs at h
    split at h
    · cases h
    · next cs hcs =>
      cases h
      simp [ih hcs, wireLabel]

/-- The first label that is too long is refused at the offset of its length byte. -/
theorem encName_label_too_long {max : LabelEncMax} {pre : DomainName} {l : Label}
    (hpre : ∀ k ∈ pre, k.length ≤ labelMax max) (hl : labelMax max < l.length) (post : DomainName) (base : Nat) :
    encName max (pre ++ l :: post) base = .error (.invalidName .labelTooLong (base + (spelling pre).length)) := by
  induction pre generalizing base with
  | nil => simp [encName, hl]
  | cons k pre ih =>
    obtain ⟨hk, hpre⟩ := List.forall_mem_cons.mp hpre
    simp [encName, Nat.not_lt.mpr hk, ih hpre, Nat.add_assoc]

/-- Settles O39: the name encodes to its spelling, up to the first label that is too long. -/
theorem nameEncodeChecksLabelLengths : Obligations.NameEncodeChecksLabelLengths := by
  intro max n base limit hlimit
  obtain rfl : limit = labelMax max := hlimit
  refine ⟨fun h => ⟨_, encName_of_fits h base, by simp [enclen_eq_spelling_length]⟩, ?_⟩
  rintro pre l post rfl hpre hl
  rw [encName_label_too_long hpre hl, enclen_eq_spelling_length, ← Nat.add_assoc, Nat.add_sub_cancel]

end Sys2Proof.Machine
end

section
/-! PROOF. DEC_NAME ends within its bound, so that its result is what its loop gives under any fuel that lets it end
(spec/41_name_codec.md R150, R159). -/

namespace Sys2Proof.Machine

/-! The bound. -/

/-- The most element steps that can still come (R159): one pass over the message for each pointer that may still be
followed, and the rest of the segment at hand. -/
def elementsLeft (e : Input) (n : NameRegs) : Nat :=
  (e.params.ptrLimit - n.hops) * (e.len + 1) + (e.len + 1 - n.p)

/-- An element step takes one off: a label raises P inside the segment, a pointer gives up a pass. -/
theorem NameElement.elementsLeft_lt {e : Input} {n n' : NameRegs} (h : NameElement e n n') (hp : n.p < e.len) :
    n'.p ≤ e.len ∧ elementsLeft e n' < elementsLeft e n := by
  have label {size : Nat} (h : labelStep e n size = .ok n') :
      n'.p ≤ e.len ∧ elementsLeft e n' < elementsLeft e n := by
    obtain ⟨lab, hle, -, -, -, rfl⟩ := labelStep_eq_ok h
    exact ⟨hle, by simp only [elementsLeft]; omega⟩
  cases h with
  | label t _ _ h => exact label h
  | ext t _ _ h => exact label (extStep_eq_ok h).2
  | pointer off h =>
    obtain ⟨hoff, hhops, rfl⟩ := pointerStep_eq_ok h
    have hpass : (e.params.ptrLimit - n.hops) * (e.len + 1) =
        (e.params.ptrLimit - (n.hops + 1)) * (e.len + 1) + (e.len + 1) := by
      rw [← Nat.succ_mul]
      congr 1
      omega
    exact ⟨hoff.le, by simp only [elementsLeft]; omega⟩

/-- A read followed by a procedure ends if the procedure does. -/
theorem once_ne_none {α β : Type} {r : Res α} {k : α → Proc β} (h : ∀ a, r = .ok a → k a ≠ none) :
    once r k ≠ none := by
  cases r with
  | ok a => exact h a rfl
  | err e => exact Option.some_ne_none _
  | fault f => exact Option.some_ne_none _

/-- A turn of DEC_NAME's loop ends it, or is an element step inside LEN after which the loop ends. -/
theorem decNameLoop_succ_ne_none {e : Input} {fuel : Nat} {n : NameRegs}
    (h : ∀ n', n.p < e.len → NameElement e n n' → decNameLoop e fuel n' ≠ none) :
    decNameLoop e (fuel + 1) n ≠ none := by
  refine once_ne_none fun t ht => ?_
  have hp : n.p < e.len := (rd8_eq_ok ht).1
  split_ifs with h0 hptr hlab
  · exact Option.some_ne_none _
  · exact once_ne_none fun b1 _ => once_ne_none fun n' hn => h n' hp (.pointer _ hn)
  · exact once_ne_none fun n' hn => h n' hp (.label t h0 hlab hn)
  · exact once_ne_none fun n' hn => h n' hp (.ext t hlab hptr hn)

/-- With fuel for the element steps that can still come, DEC_NAME's loop ends. -/
theorem decNameLoop_ends {e : Input} {fuel : Nat} {n : NameRegs} (hp : n.p ≤ e.len)
    (hfuel : elementsLeft e n ≤ fuel) : decNameLoop e fuel n ≠ none := by
  induction fuel generalizing n with
  | zero =>
    unfold elementsLeft at hfuel
    omega
  | succ fuel ih =>
    refine decNameLoop_succ_ne_none fun n' hlt hstep => ?_
    obtain ⟨hp', hless⟩ := hstep.elementsLeft_lt hlt
    exact ih hp' (Nat.le_of_lt_succ (Nat.lt_of_lt_of_le hless hfuel))

/-- Settles O27: the bound is a pass over the message for the field itself and for each pointer. -/
theorem nameDecodeTerminates : Obligations.NameDecodeTerminates := by
  intro e start hle
  refine decNameLoop_ends hle ?_
  simp only [elementsLeft, nameBound, NameRegs.start_hops, NameRegs.start_p, Nat.sub_zero, Nat.succ_mul]
  omega

/-! The result, whatever the fuel. -/

/-- DEC_NAME's loop ends with `x` from the registers `n`. -/
def NameEnds (e : Input) (n : NameRegs) (x : Res (DomainName × Nat)) : Prop :=
  ∃ fuel, decNameLoop e fuel n = some x

/-- A read followed by a procedure that gives the same where the first one ends. -/
theorem once_mono {α β : Type} {r : Res α} {k k' : α → Proc β} {x : Res β}
    (hk : ∀ a, k a = some x → k' a = some x) (h : once r k = some x) : once r k' = some x := by
  cases r with
  | ok a => exact hk a h
  | err e => exact h
  | fault f => exact h

/-- Fuel that is left over changes nothing. -/
theorem decNameLoop_mono {e : Input} {fuel more : Nat} {n : NameRegs} {x : Res (DomainName × Nat)}
    (hle : fuel ≤ more) (h : decNameLoop e fuel n = some x) : decNameLoop e more n = some x := by
  induction fuel generalizing more n with
  | zero => cases h
  | succ fuel ih =>
    obtain ⟨more, rfl⟩ := Nat.exists_eq_succ_of_ne_zero (Nat.ne_zero_of_lt hle)
    have hloop (n' : NameRegs) : decNameLoop e fuel n' = some x → decNameLoop e more n' = some x :=
      ih (Nat.le_of_succ_le_succ hle)
    refine once_mono (fun t ht => ?_) h
    split_ifs at ht ⊢
    · exact ht
    · exact once_mono (fun b1 hb1 => once_mono hloop hb1) ht
    · exact once_mono hloop ht
    · exact once_mono hloop ht

/-- DEC_NAME gives what its loop ends with. -/
theorem decName_eq_some_iff {e : Input} {start : Nat} (hle : start ≤ e.len) {x : Res (DomainName × Nat)} :
    decName e start = some x ↔ NameEnds e (NameRegs.start start) x := by
  refine ⟨fun h => ⟨_, h⟩, fun ⟨fuel, hx⟩ => ?_⟩
  obtain ⟨y, hy⟩ := Option.ne_none_iff_exists'.mp (nameDecodeTerminates e start hle)
  have hx' := decNameLoop_mono (Nat.le_max_left fuel (nameBound e)) hx
  have hy' := decNameLoop_mono (Nat.le_max_right fuel (nameBound e)) hy
  exact hy.trans (hy'.symm.trans hx')

end Sys2Proof.Machine
end

section
/-! PROOF. What DEC_NAME gives for a name field by its bytes: labels spelled in full, the terminator, and a pointer
(spec/41_name_codec.md R152, R153, R155, R157, R160). -/

namespace Sys2Proof.Machine

/-! One turn of the loop. -/

@[simp] theorem once_ok {α β : Type} (a : α) (k : α → Proc β) : once (.ok a) k = k a := rfl

/-- With the registers `n` a turn of DEC_NAME's loop takes the element step `r`. -/
def NameTurn (e : Input) (n : NameRegs) (r : Res NameRegs) : Prop :=
  ∀ fuel, decNameLoop e (fuel + 1) n = once r (decNameLoop e fuel)

/-- A loop that ends has a turn. -/
theorem NameEnds.exists_succ {e : Input} {n : NameRegs} {x : Res (DomainName × Nat)} (h : NameEnds e n x) :
    ∃ fuel, decNameLoop e (fuel + 1) n = some x := by
  obtain ⟨fuel, h⟩ := h
  cases fuel with
  | zero => cases h
  | succ fuel => exact ⟨fuel, h⟩

/-- The loop ends with what it ends with after the turn. -/
theorem NameTurn.ends {e : Input} {n n' : NameRegs} {x : Res (DomainName × Nat)} (ht : NameTurn e n (.ok n'))
    (h : NameEnds e n' x) : NameEnds e n x := by
  obtain ⟨fuel, h⟩ := h
  exact ⟨fuel + 1, (ht fuel).trans h⟩

/-- The loop ends with the error of its turn. -/
theorem NameTurn.ends_err {e : Input} {n : NameRegs} {y : Err} (ht : NameTurn e n (.err y)) :
    NameEnds e n (.err y) := ⟨1, ht 0⟩

/-- A loop that gives a name has taken its turn. -/
theorem NameTurn.ok_of_ends {e : Input} {n : NameRegs} {r : Res NameRegs} {x : DomainName × Nat}
    (ht : NameTurn e n r) (h : NameEnds e n (.ok x)) : ∃ n', r = .ok n' ∧ NameEnds e n' (.ok x) := by
  obtain ⟨fuel, h⟩ := h.exists_succ
  obtain ⟨n', hr, h⟩ := once_eq_ok.mp (ht fuel ▸ h)
  exact ⟨n', hr, fuel, h⟩

/-- A loop that gives a name has read the tag at P inside LEN. -/
theorem NameEnds.p_lt {e : Input} {n : NameRegs} {x : DomainName × Nat} (h : NameEnds e n (.ok x)) :
    n.p < e.len := by
  obtain ⟨fuel, h⟩ := h.exists_succ
  obtain ⟨t, ht, -⟩ := once_eq_ok.mp h
  exact (rd8_eq_ok ht).1

/-- At the terminator DEC_NAME returns ACC and END (R152). -/
theorem nameEnds_term {e : Input} {n : NameRegs} (h : e.ibuf.read n.p = some 0x00#8) (hp : n.p < e.len) :
    NameEnds e n (.ok (n.acc, n.fieldEnd 1)) :=
  ⟨1, by simp [decNameLoop, rd8_of_read h hp]⟩

/-! The element at P. -/

/-- A turn at a pointer's first byte reads the second byte and takes the pointer step (R155). -/
theorem decNameLoop_pointer {e : Input} {n : NameRegs} {t : Byte} (ht : rd8 e n.p .nameUnterm = .ok t)
    (hclass : t.extractLsb' 6 2 = 0b11#2) (fuel : Nat) :
    decNameLoop e (fuel + 1) n = once (rd8 e (n.p + 1) .nameUnterm) fun b1 =>
      once (pointerStep e n ((t &&& 0x3F#8).toNat * 256 + b1.toNat)) (decNameLoop e fuel) := by
  have h0 : t ≠ 0x00#8 := by
    rintro rfl
    exact absurd hclass (by decide)
  rw [decNameLoop, ht, once_ok, if_neg h0, if_pos hclass]

/-- What the bytes at `p` make an element step do to DEC_NAME's registers, where they are an element that can go on
(R153 to R155). -/
inductive ElementAt (e : Input) (p : Nat) : (NameRegs → Res NameRegs) → Prop where
  | label (t : Byte) (ht : rd8 e p .nameUnterm = .ok t) (h0 : t ≠ 0x00#8) (hclass : t.extractLsb' 6 2 = 0b00#2) :
      ElementAt e p (labelStep e · t.toNat)
  | ext (t : Byte) (ht : rd8 e p .nameUnterm = .ok t) (hptr : t.extractLsb' 6 2 ≠ 0b11#2)
      (hlab : t.extractLsb' 6 2 ≠ 0b00#2) : ElementAt e p (extStep e · t.toNat)
  | pointer (t b1 : Byte) (ht : rd8 e p .nameUnterm = .ok t) (hclass : t.extractLsb' 6 2 = 0b11#2)
      (hb1 : rd8 e (p + 1) .nameUnterm = .ok b1) :
      ElementAt e p (pointerStep e · ((t &&& 0x3F#8).toNat * 256 + b1.toNat))

/-- The element at P is what a turn of the loop does. -/
theorem ElementAt.turn {e : Input} {n : NameRegs} {f : NameRegs → Res NameRegs} (h : ElementAt e n.p f) :
    NameTurn e n (f n) := by
  intro fuel
  cases h with
  | label t ht h0 hclass =>
    rw [decNameLoop, ht, once_ok, if_neg h0, if_neg (by simp [hclass]), if_pos hclass]
  | ext t ht hptr hlab =>
    have h0 : t ≠ 0x00#8 := by
      rintro rfl
      exact absurd rfl hlab
    rw [decNameLoop, ht, once_ok, if_neg h0, if_neg hptr, if_neg hlab]
  | pointer t b1 ht hclass hb1 => rw [decNameLoop_pointer ht hclass, hb1, once_ok]

/-- A turn that leads to a name is at the terminator, or at an element after which the loop leads to the name. -/
theorem elementAt_of_loop {e : Input} {fuel : Nat} {n : NameRegs} {x : DomainName × Nat}
    (h : decNameLoop e (fuel + 1) n = some (.ok x)) :
    (rd8 e n.p .nameUnterm = .ok 0x00#8 ∧ x = (n.acc, n.fieldEnd 1)) ∨
    ∃ f n', ElementAt e n.p f ∧ f n = .ok n' ∧ decNameLoop e fuel n' = some (.ok x) := by
  obtain ⟨t, ht, h⟩ := once_eq_ok.mp h
  split_ifs at h with h0 hptr hlab
  · exact .inl ⟨h0 ▸ ht, by simpa using h.symm⟩
  · obtain ⟨b1, hb1, h⟩ := once_eq_ok.mp h
    obtain ⟨n', hn, h⟩ := once_eq_ok.mp h
    exact .inr ⟨_, n', .pointer t b1 ht hptr hb1, hn, h⟩
  · obtain ⟨n', hn, h⟩ := once_eq_ok.mp h
    exact .inr ⟨_, n', .label t ht h0 hlab, hn, h⟩
  · obtain ⟨n', hn, h⟩ := once_eq_ok.mp h
    exact .inr ⟨_, n', .ext t ht hptr hlab, hn, h⟩

/-- The length byte of a plain label is a NAME_LABEL tag. -/
theorem elementAt_label {e : Input} {p : Nat} {l : Label} (hlo : 1 ≤ l.length) (hhi : l.length ≤ 63)
    (h : e.ibuf.read p = some (BitVec.ofNat 8 l.length)) (hp : p < e.len) :
    ElementAt e p (labelStep e · l.length) := by
  have hlen : (BitVec.ofNat 8 l.length).toNat = l.length := by
    rw [BitVec.toNat_ofNat]
    omega
  have h0 : BitVec.ofNat 8 l.length ≠ 0x00#8 := fun h0 => by
    rw [h0] at hlen
    exact Nat.ne_of_gt hlo hlen.symm
  have hclass : (BitVec.ofNat 8 l.length).extractLsb' 6 2 = 0b00#2 := by
    apply BitVec.eq_of_toNat_eq
    rw [extract_toNat, hlen]
    show l.length / 2 ^ 6 % 2 ^ 2 = 0
    omega
  exact hlen ▸ .label _ (rd8_of_read h hp) h0 hclass

/-- OFFSET in numbers, from the two bytes of a pointer (R97). -/
theorem pointerOffset_toNat (hi : BitVec 6) (b1 : Byte) :
    ((0b11#2 ++ hi : Byte) &&& 0x3F#8).toNat * 256 + b1.toNat = (hi ++ b1 : BitVec 14).toNat := by
  have hand : ((0b11#2 ++ hi : Byte) &&& (0b00#2 ++ 0x3F#6)) = (0b11#2 &&& 0b00#2) ++ (hi &&& 0x3F#6) :=
    BitVec.and_append
  have hones : hi &&& 0x3F#6 = hi := BitVec.and_allOnes
  have hmask : ((0b11#2 ++ hi : Byte) &&& 0x3F#8) = 0b00#2 ++ hi := hand.trans (hones.symm ▸ rfl)
  rw [hmask, tag_toNat, append_toNat]
  simp

section
variable {e : Input} {p : Nat} {off : BitVec 14} (h : e.ibuf.holds p (be16 (0b11#2 ++ off)))
include h

/-- The bytes of a pointer are its class with the high bits of OFFSET, and the low bits. -/
theorem exists_pointer_bytes : ∃ (hi : BitVec 6) (lo : Byte), off = hi ++ lo ∧
    e.ibuf.read p = some (0b11#2 ++ hi) ∧ e.ibuf.read (p + 1) = some lo := by
  obtain ⟨hi, lo, rfl⟩ := exists_eq_append (m := 6) (n := 8) off
  rw [← u16_pointer, be16_u16, Memory.holds_cons, Memory.holds_singleton] at h
  obtain ⟨hfirst, hsecond⟩ := h
  exact ⟨hi, lo, rfl, hfirst, hsecond⟩

/-- A pointer inside LEN is a pointer step to OFFSET. -/
theorem elementAt_pointer (hle : p + 2 ≤ e.len) : ElementAt e p (pointerStep e · off.toNat) := by
  obtain ⟨hi, lo, rfl, hfirst, hsecond⟩ := exists_pointer_bytes h
  exact pointerOffset_toNat hi lo ▸ .pointer _ lo (rd8_of_read hfirst (by omega))
    BitVec.extractLsb'_append_eq_left (rd8_of_read hsecond hle)

/-- A pointer of a field that decodes has its second byte inside LEN. -/
theorem pointer_inside_of_ends {n : NameRegs} {x : DomainName × Nat} (hn : n.p = p)
    (hends : NameEnds e n (.ok x)) : p + 2 ≤ e.len := by
  subst hn
  have hp : n.p < e.len := hends.p_lt
  obtain ⟨hi, lo, -, hfirst, -⟩ := exists_pointer_bytes h
  obtain ⟨fuel, hloop⟩ := hends.exists_succ
  rw [decNameLoop_pointer (rd8_of_read hfirst hp) BitVec.extractLsb'_append_eq_left] at hloop
  obtain ⟨b1, hb1, -⟩ := once_eq_ok.mp hloop
  exact (rd8_eq_ok hb1).1

end

/-! Labels spelled in full. -/

/-- Plain labels are those a NAME_LABEL tag carries. -/
theorem plainName_cons {l : Label} {n : DomainName} :
    plainName (l :: n) = true ↔ (1 ≤ l.length ∧ l.length ≤ 63) ∧ plainName n = true := by
  simp [plainName]

/-- The registers once the labels of `n` are read. -/
def NameRegs.afterLabels (r : NameRegs) (n : DomainName) : NameRegs :=
  { r with acc := r.acc ++ n, p := r.p + (spelling n).length }

/-- A field that begins with a plain label gives a name exactly if the label fits NAME_CAP and the rest of the field,
after it, gives the name. -/
theorem nameEnds_label_iff {e : Input} {r : NameRegs} {l : Label} {x : DomainName × Nat} (hlo : 1 ≤ l.length)
    (hhi : l.length ≤ 63) (h : e.ibuf.holds r.p (wireLabel l)) :
    NameEnds e r (.ok x) ↔
      within (enclen (r.acc ++ [l])) e.params.nameCap = true ∧ NameEnds e (r.afterLabels [l]) (.ok x) := by
  have hregs : r.afterLabels [l] = { r with acc := r.acc ++ [l], p := r.p + 1 + l.length } := by
    simp [NameRegs.afterLabels, Nat.add_assoc]
  obtain ⟨htag, hbody⟩ := Memory.holds_cons.mp h
  constructor
  · intro hends
    obtain ⟨r', hstep, hends⟩ := (elementAt_label hlo hhi htag hends.p_lt).turn.ok_of_ends hends
    obtain ⟨-, hle, -, -, -, -⟩ := labelStep_eq_ok hstep
    rw [labelStep_of_holds hbody hle] at hstep
    split_ifs at hstep with hcap
    cases hstep
    exact ⟨hcap, hregs ▸ hends⟩
  · rintro ⟨hcap, hends⟩
    rw [hregs] at hends
    have hlt : r.p + 1 + l.length < e.len := hends.p_lt
    have hstep := labelStep_of_holds hbody (Nat.le_of_lt hlt)
    rw [if_pos hcap] at hstep
    exact (hstep ▸ (elementAt_label hlo hhi htag (by omega)).turn).ends hends

/-- The labels of a name are read one after the other. -/
theorem NameRegs.afterLabels_cons (r : NameRegs) (l : Label) (n : DomainName) :
    r.afterLabels (l :: n) = (r.afterLabels [l]).afterLabels n := by
  simp [NameRegs.afterLabels, Nat.add_assoc]

/-- The bytes of a name's labels, the first label split off. -/
theorem holds_spelling_cons {e : Input} {r : NameRegs} {l : Label} {n : DomainName} :
    e.ibuf.holds r.p (spelling (l :: n)) ↔
      e.ibuf.holds r.p (wireLabel l) ∧ e.ibuf.holds (r.afterLabels [l]).p (spelling n) := by
  rw [spelling_cons, Memory.holds_append]
  simp [NameRegs.afterLabels]

/-- If a field that begins with the plain labels of `n` gives a name, then the rest of it, after them, does. -/
theorem NameEnds.afterLabels {e : Input} {r : NameRegs} {n : DomainName} {x : DomainName × Nat}
    (hends : NameEnds e r (.ok x)) (hplain : plainName n = true) (h : e.ibuf.holds r.p (spelling n)) :
    NameEnds e (r.afterLabels n) (.ok x) := by
  induction n generalizing r with
  | nil => simpa [NameRegs.afterLabels] using hends
  | cons l n ih =>
    obtain ⟨⟨hlo, hhi⟩, hplain⟩ := plainName_cons.mp hplain
    obtain ⟨hl, hn⟩ := holds_spelling_cons.mp h
    obtain ⟨-, hends⟩ := (nameEnds_label_iff hlo hhi hl).mp hends
    exact r.afterLabels_cons l n ▸ ih hends hplain hn

/-- A capacity that holds a quantity holds every smaller one. -/
theorem within_of_le {m n : Nat} {cap : Option Nat} (hle : m ≤ n) (h : within n cap = true) : within m cap = true :=
  (within_iff m cap).mpr fun c hc => hle.trans ((within_iff n cap).mp h c hc)

/-- Plain labels that fit NAME_CAP are read, and the rest of the field gives the name. -/
theorem NameEnds.of_afterLabels {e : Input} {r : NameRegs} {n : DomainName} {x : DomainName × Nat}
    (hends : NameEnds e (r.afterLabels n) (.ok x)) (hplain : plainName n = true)
    (h : e.ibuf.holds r.p (spelling n)) (hcap : within (enclen (r.acc ++ n)) e.params.nameCap = true) :
    NameEnds e r (.ok x) := by
  induction n generalizing r with
  | nil => simpa [NameRegs.afterLabels] using hends
  | cons l n ih =>
    obtain ⟨⟨hlo, hhi⟩, hplain⟩ := plainName_cons.mp hplain
    obtain ⟨hl, hn⟩ := holds_spelling_cons.mp h
    have hfirst : enclen (r.acc ++ [l]) ≤ enclen (r.acc ++ l :: n) := by
      simp [enclen_eq_spelling_length, spelling]
    refine (nameEnds_label_iff hlo hhi hl).mpr ⟨within_of_le hfirst hcap, ?_⟩
    rw [NameRegs.afterLabels_cons] at hends
    exact ih hends hplain hn (by simpa [NameRegs.afterLabels] using hcap)

/-- Settles O29: the labels are read, then the terminator. -/
theorem spelledNameDecodesToItself : Obligations.SpelledNameDecodesToItself := by
  intro e start n bs hplain henc h hle hcap
  obtain rfl := encName_eq_ok henc
  rw [enclen_eq_spelling_length] at hcap ⊢
  obtain ⟨hlabels, hterm⟩ := Memory.holds_append.mp h
  rw [List.length_append, List.length_singleton] at hle ⊢
  refine ⟨rfl, (decName_eq_some_iff (by omega)).mpr ?_⟩
  have hend : NameEnds e ((NameRegs.start start).afterLabels n) (.ok (n, start + ((spelling n).length + 1))) :=
    nameEnds_term (Memory.holds_singleton.mp hterm) (Nat.lt_of_succ_le hle)
  refine hend.of_afterLabels hplain hlabels ((within_iff _ _).mpr ?_)
  simpa [enclen_eq_spelling_length] using hcap

/-! A pointer to itself. -/

/-- A pointer to itself is followed until PTR_LIMIT pointers have been. -/
theorem nameEnds_selfPointer {e : Input} {off : BitVec 14} {r : NameRegs} (hp : r.p = off.toNat)
    (h : e.ibuf.holds off.toNat (be16 (0b11#2 ++ off))) (hle : off.toNat + 2 ≤ e.len) :
    NameEnds e r (.err (.malformed .ptrLimit off.toNat)) := by
  have hturn {r : NameRegs} (hp : r.p = off.toNat) : NameTurn e r (pointerStep e r off.toNat) :=
    ElementAt.turn (f := (pointerStep e · off.toNat)) (hp ▸ elementAt_pointer h hle)
  have hin : off.toNat < e.len := by omega
  induction hleft : e.params.ptrLimit - r.hops generalizing r with
  | zero =>
    have herr := pointerStep_limit (n := r) hin (by omega)
    exact hp ▸ (herr ▸ hturn hp).ends_err
  | succ left ih =>
    have hjump := pointerStep_jumps (n := r) hin (by omega)
    exact (hjump ▸ hturn hp).ends (ih rfl (by simp only; omega))

/-- Settles O31: DEC_NAME starts with HOPS 0, and each turn raises it. -/
theorem selfPointerHitsThePointerLimit : Obligations.SelfPointerHitsThePointerLimit := fun e off h hle =>
  (decName_eq_some_iff (by omega)).mpr (nameEnds_selfPointer rfl h hle)

/-! A pointer after labels. -/

/-- DEC_NAME's registers `r` and `r'` at the same offset, where `r` has read `pre` more and followed no fewer
pointers. -/
structure Splices (pre : DomainName) (r r' : NameRegs) : Prop where
  p : r'.p = r.p
  hops : r'.hops ≤ r.hops
  acc : r.acc = pre ++ r'.acc

/-- A label joins both names: the one with less before it fits NAME_CAP where the other does. -/
theorem Splices.label {e : Input} {pre : DomainName} {r r' s : NameRegs} {size : Nat} (h : Splices pre r r')
    (hstep : labelStep e r size = .ok s) : ∃ s', labelStep e r' size = .ok s' ∧ Splices pre s s' := by
  obtain ⟨hp, hhops, hacc⟩ := h
  obtain ⟨lab, hle, rfl, hread, hcap, rfl⟩ := labelStep_eq_ok hstep
  have hless : enclen (r'.acc ++ [lab]) ≤ enclen (r.acc ++ [lab]) := by
    simp [hacc, enclen_append]
  rw [← hp] at hle hread
  rw [labelStep_of_holds hread hle, if_pos (within_of_le hless hcap)]
  exact ⟨_, rfl, by simp [hp], hhops, by simp [hacc]⟩

/-- An element step taken from one is taken from the other. -/
theorem Splices.element {e : Input} {pre : DomainName} {r r' s : NameRegs} {p : Nat} {f : NameRegs → Res NameRegs}
    (h : Splices pre r r') (hf : ElementAt e p f) (hstep : f r = .ok s) :
    ∃ s', f r' = .ok s' ∧ Splices pre s s' := by
  cases hf with
  | label t _ _ _ => exact h.label hstep
  | ext t _ _ _ =>
    obtain ⟨hpolicy, hstep⟩ := extStep_eq_ok hstep
    simpa [extStep, hpolicy] using h.label hstep
  | pointer t b1 _ _ _ =>
    obtain ⟨-, hhops, hacc⟩ := h
    obtain ⟨hoff, hlimit, rfl⟩ := pointerStep_eq_ok hstep
    exact ⟨_, pointerStep_jumps hoff (Nat.lt_of_le_of_lt hhops hlimit), rfl, Nat.succ_le_succ hhops, hacc⟩

/-- From registers that have read `pre` less, DEC_NAME gives the name without `pre`. -/
theorem NameEnds.spliced {e : Input} {pre : DomainName} {r r' : NameRegs} {n : DomainName} {next : Nat}
    (hends : NameEnds e r (.ok (n, next))) (h : Splices pre r r') :
    ∃ rest q, NameEnds e r' (.ok (rest, q)) ∧ n = pre ++ rest := by
  obtain ⟨fuel, hloop⟩ := hends
  induction fuel generalizing r r' with
  | zero => cases hloop
  | succ fuel ih =>
    rcases elementAt_of_loop hloop with ⟨hterm, hx⟩ | ⟨f, s, hf, hstep, hloop⟩
    · rw [← h.p] at hterm
      obtain ⟨hlt, hread⟩ := rd8_eq_ok hterm
      obtain ⟨rfl, -⟩ := Prod.mk.inj hx
      exact ⟨_, _, nameEnds_term hread hlt, h.acc⟩
    · obtain ⟨s', hstep', hs⟩ := h.element hf hstep
      obtain ⟨rest, q, hrest, hn⟩ := ih hs hloop
      have hturn : NameTurn e r' (f r') := (h.p ▸ hf : ElementAt e r'.p f).turn
      exact ⟨rest, q, (hstep' ▸ hturn).ends hrest, hn⟩

/-- Settles O30: the labels are read, the pointer sets END and jumps, and from its target on DEC_NAME reads what it
reads from a fresh start there. -/
theorem pointerSplicesItsTarget : Obligations.PointerSplicesItsTarget := by
  intro e start pre bs off n next hplain henc h hdec
  obtain rfl : bs = spelling pre := List.append_cancel_right (encName_eq_ok henc)
  obtain ⟨hlabels, hptr⟩ := Memory.holds_append.mp h
  have hends : NameEnds e ((NameRegs.start start).afterLabels pre) (.ok (n, next)) :=
    NameEnds.afterLabels ⟨_, hdec⟩ hplain hlabels
  have hturn : NameTurn e ((NameRegs.start start).afterLabels pre) _ :=
    (elementAt_pointer hptr (pointer_inside_of_ends hptr rfl hends)).turn
  obtain ⟨r, hstep, fuel, hloop⟩ := hturn.ok_of_ends hends
  obtain ⟨hoff, -, rfl⟩ := pointerStep_eq_ok hstep
  obtain ⟨rest, q, hrest, hn⟩ := NameEnds.spliced (r' := NameRegs.start off.toNat) ⟨fuel, hloop⟩
    ⟨rfl, Nat.zero_le _, (List.append_nil pre).symm⟩
  exact ⟨(decNameLoop_next hloop).1 _ rfl, rest, q, (decName_eq_some_iff hoff.le).mpr hrest, hn⟩

end Sys2Proof.Machine
end

section
/-! PROOF. The record-data rows on the machine (spec/42_rdata_codec.md R181 to R183): a body of raw bytes, and what the
rows leave unchanged. -/

namespace Sys2Proof.Machine

/-! The body of an A or Opaque record. -/

/-- A body that passes LEN is refused at its first byte. -/
theorem readBody_past_len {e : Input} {p rdlen : Nat} (h : e.len < p + rdlen) :
    readBody e p rdlen = .err (.malformed .sliceTrunc p) := by
  rw [readBody, rdSlice_past_len h, Res.andThen_err]

/-- A body inside LEN is its bytes, if RDATA_CAP holds them. -/
theorem readBody_of_holds {e : Input} {p : Nat} {b : Bytes} (h : e.ibuf.holds p b) (hle : p + b.length ≤ e.len) :
    readBody e p b.length = if within b.length e.params.rdataCap then .ok b else .err (.capacity .rdata p) := by
  rw [readBody, rdSlice_of_holds h hle, Res.andThen_ok]

/-- RD_A and RD_OPAQUE read a body into the variant of their row, under their own TYPE. -/
theorem exec_body {i : Instr} {t : U16} {variant : Bytes → RData}
    (hi : (i = .rdA ∧ t = 0x0001#16 ∧ variant = RData.a) ∨ (i = .rdOpaque t ∧ variant = RData.opaq)) (s : State) :
    exec i s = s.bodyRecord t variant := by
  rcases hi with ⟨rfl, rfl, rfl⟩ | ⟨rfl, rfl⟩ <;> rfl

/-- Settles O16: the slice's bounds are checked, then RDATA_CAP; a body that passes both finishes its record. -/
theorem rawRecordDataIsCopied : Obligations.RawRecordDataIsCopied := by
  refine ⟨fun _ _ => ⟨rfl, rfl, rfl⟩, fun s i t variant hi => ?_⟩
  rw [exec_body hi]
  refine ⟨fun hlt => ?_, fun b hb hle hread => ?_⟩
  · rw [State.bodyRecord, readBody_past_len hlt]
    rfl
  · rw [State.bodyRecord]
    rw [← hb] at hle ⊢
    rw [readBody_of_holds hread hle, State.input_params]
    refine ⟨fun hcap => ?_, fun cap hcap hlt => ?_⟩
    · rw [if_pos ((within_iff _ _).mpr hcap)]
      rfl
    · rw [if_neg fun hw => Nat.not_le.mpr hlt ((within_iff _ _).mp hw cap hcap)]
      rfl

/-! The frame: a record that joins a list leaves the header fields and the questions. -/

@[simp] theorem Message.addRecord_id (m : Message) (c : Sect) (r : ResourceRecord) : (m.addRecord c r).id = m.id := by
  cases c <;> rfl

@[simp] theorem Message.addRecord_flags (m : Message) (c : Sect) (r : ResourceRecord) :
    (m.addRecord c r).flags = m.flags := by
  cases c <;> rfl

@[simp] theorem Message.addRecord_questions (m : Message) (c : Sect) (r : ResourceRecord) :
    (m.addRecord c r).questions = m.questions := by
  cases c <;> rfl

/-- RD_A and RD_OPAQUE finish the record or enter an error. -/
theorem exec_body_next {i : Instr} {rt : U16} {s t : State} (hi : i = .rdA ∨ i = .rdOpaque rt)
    (h : exec i s = .next t) : (∃ ty rd next, t = s.finishRecord ty rd next) ∨ ∃ e, t = s.raise .decode e := by
  obtain ⟨ty, variant, hexec⟩ : ∃ ty variant, exec i s = s.bodyRecord ty variant := by
    rcases hi with rfl | rfl
    · exact ⟨_, _, exec_body (.inl ⟨rfl, rfl, rfl⟩) s⟩
    · exact ⟨_, _, exec_body (.inr ⟨rfl, rfl⟩) s⟩
  rcases State.decodeStep_next (hexec ▸ h) with ⟨b, -, ht⟩ | ⟨e, -, ht⟩
  · exact .inl ⟨_, _, _, ht⟩
  · exact .inr ⟨e, ht⟩

/-- Settles O18: RD_CNAME writes the registers of its name; the other rows finish the record or enter an error. -/
theorem recordDataFrame : Obligations.RecordDataFrame := by
  intro i s t rt hi h
  rcases or_left_comm.mp hi with rfl | hbody
  · obtain rfl : _ = t := Host.Outcome.next.inj h
    simp
  · have hne : i ≠ .rdCname := by rcases hbody with rfl | rfl <;> simp
    rcases exec_body_next hbody h with ⟨ty, rd, next, rfl⟩ | ⟨e, rfl⟩
    · simp [hne]
    · exact ⟨by simp, .inl ⟨e, rfl⟩⟩

end Sys2Proof.Machine
end

section
/-! PROOF. The machine's run through a name is DEC_NAME (spec/41_name_codec.md R150, spec/45_host_commands.md R240),
whoever called it; with it RD_CNAME (spec/42_rdata_codec.md R182). -/

namespace Sys2Proof.Machine

/-! Runs. -/

/-- A run of one step. -/
theorem runSteps_one (s : State) : runSteps 1 s = step s := by
  rw [runSteps]
  cases step s <;> rfl

/-- A run whose first step answers a next state goes on from there. -/
theorem runSteps_succ_of_next {s t : State} (h : step s = .next t) (k : Nat) : runSteps (k + 1) s = runSteps k t := by
  rw [runSteps, h]

/-! One element. -/

/-- A chain of two steps in front of a procedure is one step after the other. -/
theorem once_andThen {α β γ : Type} (r : Res α) (f : α → Res β) (k : β → Proc γ) :
    once (r.andThen f) k = once r fun a => once (f a) k := by
  cases r <;> rfl

/-- OFFSET from the two bytes of a pointer (R97). -/
theorem decodePointer_append (l : BitVec 6) (b1 : Byte) : decodePointer (0b11#2 ++ l) b1 = .namePtr (l ++ b1) := by
  rw [decodePointer, u16_pointer, BitVec.extractLsb'_append_eq_right]

/-- DNSC has the turn, with no host program left, at a name element. -/
structure AtElement (s : State) : Prop where
  busy : s.phase = .busy
  host : s.host = []
  ctl : s.ctl = .name

/-- The turn of DEC_NAME's loop that the machine's step at a name element is: the terminator, or an element step `r`,
whose error or fault is also that of a tag that cannot be read. -/
inductive ElementStepped (s : State) : Prop where
  | ended (hterm : rd8 s.input s.name.p .nameUnterm = .ok 0x00#8) (hstep : step s = exec .nameTerm s)
  | turned (r : Res NameRegs) (hturn : NameTurn s.input s.name r) (hstep : step s = s.nameStep r)

section
variable {s : State} (hs : AtElement s)
include hs

theorem AtElement.engineState : s.engineState = some s := by
  simp [State.engineState, hs.busy, hs.host]

/-- The step at a name element is the element's turn. -/
theorem AtElement.step_eq : step s = s.elementTurn.result := by
  rw [step_of_engineState hs.engineState, State.engine, hs.ctl]

/-- A step at a tag of one byte runs its row. -/
theorem AtElement.step_tag {t : Byte} {i : Instr} (ht : rd8 s.input s.name.p .nameUnterm = .ok t)
    (hi : decode (.tag [t]) = .ok i) : step s = exec i s := by
  obtain ⟨hlt, hread⟩ := rd8_eq_ok ht
  exact step_of_fetched hs.engineState hs.ctl
    (fetchElement_of_decode (Memory.holds_singleton.mpr hread) hlt hi)

/-- A pointer's first byte makes the step read the second one and jump (R155); DEC_NAME's loop does the same. -/
theorem AtElement.stepped_pointer {l : BitVec 6} (ht : rd8 s.input s.name.p .nameUnterm = .ok (0b11#2 ++ l)) :
    ElementStepped s := by
  have hclass : (0b11#2 ++ l : Byte).extractLsb' 6 2 = 0b11#2 := BitVec.extractLsb'_append_eq_left
  refine .turned ((rd8 s.input (s.name.p + 1) .nameUnterm).andThen fun b1 =>
    pointerStep s.input s.name (((0b11#2 ++ l : Byte) &&& 0x3F#8).toNat * 256 + b1.toNat)) (fun fuel => ?_) ?_
  · rw [decNameLoop_pointer ht hclass, once_andThen]
  · rw [hs.step_eq, State.elementTurn, fetchElement, ht, Res.andThen_ok, decodeTagByte_pointer]
    cases rd8 s.input (s.name.p + 1) .nameUnterm with
    | ok b1 =>
      rw [Res.andThen_ok, Res.andThen_ok, decodePointer_append, pointerOffset_toNat]
      rfl
    | err e => rfl
    | fault f => rfl

/-- The machine's step at a name element is a turn of DEC_NAME's loop, row by row. -/
theorem AtElement.stepped : ElementStepped s := by
  cases ht : rd8 s.input s.name.p .nameUnterm with
  | err e =>
    exact .turned (.err e) (fun fuel => by rw [decNameLoop, ht]; rfl)
      (by rw [hs.step_eq, State.elementTurn, fetchElement, ht]; rfl)
  | fault f =>
    exact .turned (.fault f) (fun fuel => by rw [decNameLoop, ht]; rfl)
      (by rw [hs.step_eq, State.elementTurn, fetchElement, ht]; rfl)
  | ok t =>
    have hclass (c : BitVec 2) (l : BitVec 6) : (c ++ l : Byte).extractLsb' 6 2 = c :=
      BitVec.extractLsb'_append_eq_left
    cases tagByte t with
    | term => exact .ended ht (hs.step_tag ht (decode_tag_term []))
    | label l hl =>
      have h0 : (0b00#2 ++ l : Byte) ≠ 0x00#8 := fun h0 => hl ((tag_eq_zero_iff _ _).mp h0).2
      refine .turned _ (ElementAt.label _ ht h0 (hclass _ l)).turn ?_
      have hval : (0b00#2 ++ l : Byte).toNat = l.toNat := by simp [tag_toNat]
      rw [hs.step_tag ht (decode_tag_label hl []), hval]
      rfl
    | ext01 l =>
      refine .turned _ (ElementAt.ext _ ht (by simp [hclass]) (by simp [hclass])).turn ?_
      rw [hs.step_tag ht (decode_tag_ext01 l []), tag_toNat]
      rfl
    | ext10 l =>
      refine .turned _ (ElementAt.ext _ ht (by simp [hclass]) (by simp [hclass])).turn ?_
      rw [hs.step_tag ht (decode_tag_ext10 l []), tag_toNat]
      rfl
    | pointer l => exact hs.stepped_pointer ht

end

/-! The whole name. -/

/-- What DEC_NAME's result `x` makes of a state whose name decoder has come to the registers `regs`: the caller takes
the name, the error is entered, or the fault ends the run. -/
def State.afterName (s : State) (regs : NameRegs) (x : Res (DomainName × Nat)) : Result :=
  State.decodeStep { s with name := regs } x fun r => State.returnName { s with name := regs } r.1 r.2

/-- A Cname completes its record. -/
theorem State.afterName_cname {s : State} (h : s.use = .cname) (regs : NameRegs) (r : DomainName × Nat) :
    s.afterName regs (.ok r) =
      .next (State.finishRecord { s with name := regs } s.recd.rtype (.cname r.1) r.2) :=
  congrArg _ (State.returnName_cname (s := { s with name := regs }) h r.1 r.2)

/-- From a name element on, the machine runs to what DEC_NAME's loop ends with; of the registers only the name decoder's
have changed on the way. -/
theorem runSteps_decNameLoop {fuel : Nat} {s : State} {x : Res (DomainName × Nat)} (hs : AtElement s)
    (h : decNameLoop s.input fuel s.name = some x) :
    ∃ k regs, runSteps k s = s.afterName regs x := by
  induction fuel generalizing s with
  | zero => cases h
  | succ fuel ih =>
    cases hs.stepped with
    | ended hterm hstep =>
      rw [decNameLoop, hterm, once_ok, if_pos rfl] at h
      cases h
      exact ⟨1, _, (runSteps_one s).trans hstep⟩
    | turned r hturn hstep =>
      rw [hturn fuel] at h
      cases r with
      | ok n =>
        obtain ⟨k, regs, hrun⟩ := ih (s := { s with name := n }) ⟨hs.busy, hs.host, hs.ctl⟩ h
        exact ⟨k + 1, regs, (runSteps_succ_of_next hstep k).trans hrun⟩
      | err e =>
        cases h
        exact ⟨1, s.name, (runSteps_one s).trans hstep⟩
      | fault f =>
        cases h
        exact ⟨1, s.name, (runSteps_one s).trans hstep⟩

/-- A name that starts at or past LEN has no tag. -/
theorem decName_past_len {e : Input} {start : Nat} (h : e.len ≤ start) :
    decName e start = some (.err (.malformed .nameUnterm start)) := by
  have hbound : nameBound e ≠ 0 := Nat.mul_ne_zero (Nat.succ_ne_zero _) (Nat.succ_ne_zero _)
  obtain ⟨fuel, hfuel⟩ := Nat.exists_eq_succ_of_ne_zero hbound
  rw [decName, hfuel, decNameLoop, NameRegs.start_p, rd8_past_len h]
  rfl

/-- DEC_NAME has a result wherever it starts. -/
theorem exists_decName_eq_some (e : Input) (start : Nat) : ∃ x, decName e start = some x := by
  rcases le_total start e.len with hle | hle
  · exact Option.ne_none_iff_exists'.mp (nameDecodeTerminates e start hle)
  · exact ⟨_, decName_past_len hle⟩

/-- The state in which RD_CNAME leaves the machine: at the first element of the name at CUR (R182). -/
def State.startCname (s : State) : State :=
  { s with
    recd := { s.recd with rtype := 0x0005#16 }
    name := NameRegs.start s.cur
    use := .cname
    ctl := .name }

/-- RD_CNAME starts its name in one step, always. -/
theorem exec_rdCname (s : State) : exec .rdCname s = .next s.startCname := rfl

/-- Settles O17: RD_CNAME starts DEC_NAME at CUR, the machine runs it to its result, and a name it gives completes the
record. -/
theorem cnameRecordRunsToItsName : Obligations.CnameRecordRunsToItsName := by
  refine fun s => ⟨exec_rdCname s, fun hbusy hhost => ?_⟩
  obtain ⟨x, hx⟩ := exists_decName_eq_some s.input s.cur
  obtain ⟨k, regs, hrun⟩ := runSteps_decNameLoop (s := s.startCname) ⟨hbusy, hhost, rfl⟩ hx
  refine ⟨k, s.startCname, exec_rdCname s, ?_⟩
  rw [hx]
  cases x with
  | ok r =>
    rw [State.afterName_cname rfl] at hrun
    exact ⟨_, hrun, rfl, rfl, rfl, rfl, hbusy, rfl⟩
  | err e => exact ⟨_, hrun, rfl, rfl, rfl, BitVec.toNat_ofNat _ _⟩
  | fault f => exact hrun

end Sys2Proof.Machine
end

section
/-! PROOF. The errors of the message decoder (spec/43_message_decoder.md R201 to R205): the first fixed field that
passes LEN, and REC_CAP, in the procedures and in the machine's steps. -/

namespace Sys2Proof.Machine

/-! A fixed field: past LEN it is the caller's error, written and inside LEN it has a value. -/

@[simp] theorem procThen_ok {α β : Type} (a : α) (k : α → Proc β) : procThen (some (.ok a)) k = k a := rfl

@[simp] theorem procThen_err {α β : Type} (x : Err) (k : α → Proc β) :
    procThen (some (.err x)) k = some (.err x) := rfl

/-- A byte of a written range has a value. -/
theorem Memory.written.exists_ib_eq_ok {e : Input} {a n c : Nat} (h : e.ibuf.written a n) (hlo : a ≤ c)
    (hhi : c < a + n) : ∃ b, ib e c = .ok b := by
  have hsome := h (c - a) (by omega)
  rw [Nat.add_sub_cancel' hlo] at hsome
  obtain ⟨b, hb⟩ := Option.isSome_iff_exists.mp hsome
  exact ⟨b, by rw [ib, hb]⟩

section
variable {β : Type} {e : Input} {a n c : Nat} {why : MalReason} {x : Proc β}

theorem rd16_past_len (h : e.len < c + 2) : rd16 e c why = .err (.malformed why c) :=
  rd16_eq_iff.mpr (rdSlice_past_len h)

theorem rd32_past_len (h : e.len < c + 4) : rd32 e c why = .err (.malformed why c) :=
  rd32_eq_iff.mpr (rdSlice_past_len h)

theorem once_rd16_past_len {k : U16 → Proc β} (h : e.len < c + 2) :
    once (rd16 e c why) k = some (.err (.malformed why c)) := by
  rw [rd16_past_len h]
  rfl

theorem once_rd32_past_len {k : U32 → Proc β} (h : e.len < c + 4) :
    once (rd32 e c why) k = some (.err (.malformed why c)) := by
  rw [rd32_past_len h]
  rfl

theorem once_rd16_written {k : U16 → Proc β} (h : e.ibuf.written a n) (hlo : a ≤ c) (hhi : c + 2 ≤ a + n)
    (hle : c + 2 ≤ e.len) (hk : ∀ v, k v = x) : once (rd16 e c why) k = x := by
  obtain ⟨b0, h0⟩ := h.exists_ib_eq_ok hlo (by omega)
  obtain ⟨b1, h1⟩ := h.exists_ib_eq_ok (c := c + 1) (by omega) (by omega)
  simp [rd16, (inb_iff e c 2).mpr hle, h0, h1, hk]

theorem once_rd32_written {k : U32 → Proc β} (h : e.ibuf.written a n) (hlo : a ≤ c) (hhi : c + 4 ≤ a + n)
    (hle : c + 4 ≤ e.len) (hk : ∀ v, k v = x) : once (rd32 e c why) k = x := by
  obtain ⟨b0, h0⟩ := h.exists_ib_eq_ok hlo (by omega)
  obtain ⟨b1, h1⟩ := h.exists_ib_eq_ok (c := c + 1) (by omega) (by omega)
  obtain ⟨b2, h2⟩ := h.exists_ib_eq_ok (c := c + 2) (by omega) (by omega)
  obtain ⟨b3, h3⟩ := h.exists_ib_eq_ok (c := c + 3) (by omega) (by omega)
  simp [rd32, (inb_iff e c 4).mpr hle, h0, h1, h2, h3, hk]

end

/-! The procedures. -/

/-- One field of DEC_HEADER in a short buffer (R201): the error is at the first offset, among the even ones, whose two
bytes pass LEN; before it the field is read. -/
theorem once_headerField {β : Type} {e : Input} {i : Nat} {k : U16 → Proc β} (h : e.ibuf.written 0 e.len)
    (hfirst : i ≤ e.len / 2)
    (hk : i + 1 ≤ e.len / 2 → ∀ v, k v = some (.err (.malformed .hdrTrunc (2 * (e.len / 2))))) :
    once (rd16 e (2 * i) .hdrTrunc) k = some (.err (.malformed .hdrTrunc (2 * (e.len / 2)))) := by
  rcases hfirst.eq_or_lt with rfl | hlt
  · exact once_rd16_past_len (by omega)
  · exact once_rd16_written h (Nat.zero_le _) (by omega) (by omega) (hk hlt)

/-- Settles O36: each header field that lies inside LEN is read, and the first one that does not is the error. -/
theorem shortHeaderIsTruncated : Obligations.ShortHeaderIsTruncated := by
  intro e hlen hw
  suffices h : decHeader e = some (.err (.malformed .hdrTrunc (2 * (e.len / 2)))) by rw [decodeMsg, h, procThen_err]
  refine once_headerField (i := 0) hw (Nat.zero_le _) fun h1 _ => ?_
  refine once_headerField hw h1 fun h2 _ => once_headerField hw h2 fun h3 _ => ?_
  refine once_headerField hw h3 fun h4 _ => once_headerField hw h4 fun h5 _ => ?_
  exact once_headerField hw h5 fun h6 _ => absurd h6 (by omega)

/-- Settles O58: a field that passes LEN is the error at its own offset, and the written fields before it are read. -/
theorem truncatedFieldsAreAtTheirOffsets : Obligations.TruncatedFieldsAreAtTheirOffsets := by
  refine fun e p => ⟨fun x hx => ?_, fun n q hq => ?_⟩
  · simp [decQuestion, decRecord, hx]
  simp only [decQuestion, decRecord, hq, procThen_ok]
  refine ⟨fun hlt => ⟨once_rd16_past_len hlt, once_rd16_past_len hlt⟩, fun hle hlt hw => ?_, fun hle hlt hw => ?_,
    fun hle hlt hw => ?_⟩
  · exact ⟨once_rd16_written hw le_rfl le_rfl hle fun _ => once_rd16_past_len hlt,
      once_rd16_written hw le_rfl le_rfl hle fun _ => once_rd16_past_len hlt⟩
  · refine once_rd16_written hw le_rfl (by omega) (by omega) fun _ => ?_
    refine once_rd16_written hw (by omega) (by omega) hle fun _ => ?_
    exact once_rd32_past_len hlt
  · refine once_rd16_written hw le_rfl (by omega) (by omega) fun _ => ?_
    refine once_rd16_written hw (by omega) (by omega) (by omega) fun _ => ?_
    refine once_rd32_written hw (by omega) (by omega) hle fun _ => ?_
    exact once_rd16_past_len hlt

/-- REC_CAP holds record `idx` exactly if it is unbounded or larger (R205). -/
theorem recCap_holds_iff {cap : Option Nat} {idx : Nat} :
    within (idx + 1) cap = true ↔ ∀ c, cap = some c → idx < c :=
  within_iff (idx + 1) cap

/-- A bounded REC_CAP that is reached does not hold another record. -/
theorem recCap_reached {cap : Option Nat} {idx c : Nat} (hc : cap = some c) (hle : c ≤ idx) :
    ¬ within (idx + 1) cap = true :=
  fun h => Nat.not_lt.mpr hle (recCap_holds_iff.mp h c hc)

/-- Settles O59: the walker's one test at each record is that of REC_CAP. -/
theorem sectionWalkerChecksCapacityFirst : Obligations.SectionWalkerChecksCapacityFirst := by
  refine fun α e dec left idx cur => ⟨rfl, fun cap hcap hle => ?_, fun hcap => ?_⟩
  · rw [decSection, if_neg (recCap_reached hcap hle)]
  rw [decSection, if_pos (recCap_holds_iff.mpr hcap)]
  refine ⟨fun x hx => by rw [hx, procThen_err], fun r c hr => ⟨fun x hx => ?_, fun rs q hrs => ?_⟩⟩
  · rw [hr, procThen_ok, hx, procThen_err]
  · rw [hr, procThen_ok, hrs, procThen_ok]

/-! The machine's steps. -/

/-- At a 16-bit field of a record the machine reads at CUR. -/
theorem engine_of_field {u : State}
    (hc : u.ctl = .qtype ∨ u.ctl = .qclass ∨ u.ctl = .rtype ∨ u.ctl = .rclass ∨ u.ctl = .rdlength) :
    ∃ k, u.engine = .act (u.decodeStep (rd16 u.input u.cur .fieldTrunc) k) := by
  unfold State.engine
  rcases hc with hc | hc | hc | hc | hc <;> (rw [hc]; exact ⟨_, rfl⟩)

/-- Settles O60: the fields are read at CUR, and the walker tests REC_CAP at the head of its loop. -/
theorem walkerErrorsAreRaisedAtCur : Obligations.WalkerErrorsAreRaisedAtCur := by
  intro s u hu
  rw [step_of_engineState hu]
  refine ⟨fun hc hlt => ?_, fun hc hlt => ?_, fun cap hc hidx hcap hle => ?_⟩
  · obtain ⟨k, hk⟩ := engine_of_field hc
    rw [hk, rd16_past_len hlt]
    rfl
  · rw [State.engine, hc, Fetched.result, State.ttlStep, rd32_past_len hlt]
    rfl
  · rw [State.engine, hc, Fetched.result, State.walkStep, if_pos hidx, if_neg (recCap_reached hcap hle)]

end Sys2Proof.Machine
end

section
/-! PROOF. What a decoded message looks like (spec/43_message_decoder.md R207): counts, variants and labels. -/

namespace Sys2Proof.Machine

/-! Labels under REJECT. -/

theorem plainName_append (m n : DomainName) : plainName (m ++ n) = (plainName m && plainName n) :=
  List.all_append

/-- A NAME_LABEL tag carries a length 1..63 (spec/41_name_codec.md R153). -/
theorem labelTag_bounds {t : Byte} (h0 : t ≠ 0x00#8) (hclass : t.extractLsb' 6 2 = 0b00#2) :
    1 ≤ t.toNat ∧ t.toNat ≤ 63 := by
  have hpos : t.toNat ≠ 0 := fun h => h0 (BitVec.eq_of_toNat_eq h)
  have hhigh : t.toNat / 2 ^ 6 % 2 ^ 2 = 0 := by rw [← extract_toNat, hclass]; rfl
  have := t.isLt
  omega

/-- Under REJECT every element step keeps the name read so far plain: an extended tag does not go on. -/
theorem NameElement.keeps_plain {e : Input} {n n' : NameRegs} (hpol : e.params.extTagPolicy = .reject)
    (h : NameElement e n n') (hn : plainName n.acc = true) : plainName n'.acc = true := by
  cases h with
  | label t h0 hclass h =>
    obtain ⟨lab, -, hlen, -, -, rfl⟩ := labelStep_eq_ok h
    have hbounds := labelTag_bounds h0 hclass
    rw [← hlen] at hbounds
    rw [plainName_append, hn]
    exact plainName_cons.mpr ⟨hbounds, rfl⟩
  | ext t _ _ h => simp [extStep, hpol] at h
  | pointer off h =>
    obtain ⟨-, -, rfl⟩ := pointerStep_eq_ok h
    exact hn

/-- A name decoded under REJECT is plain. -/
theorem decName_plain {e : Input} (hpol : e.params.extTagPolicy = .reject) {p q : Nat} {n : DomainName}
    (h : decName e p = some (.ok (n, q))) : plainName n = true := by
  obtain ⟨m, hm, hr⟩ := decNameLoop_invariant (P := fun m => plainName m.acc = true)
    (fun _ _ hstep => hstep.keeps_plain hpol) rfl h
  cases hr
  exact hm

/-! Records. -/

/-- The variant of a decoded record is that of the TYPE that was dispatched (spec/42_rdata_codec.md R180). -/
theorem decRecord_variantAgrees {e : Input} {p : Nat} {r : ResourceRecord × Nat}
    (h : decRecord e p = some (.ok r)) : variantAgrees r.1 = true := by
  obtain ⟨q, rdlen, -, -, -, -, -, hdata⟩ := decRecord_eq_ok h
  rcases decRdata_eq_ok hdata with ⟨htype, n, -, hd⟩ | ⟨htype, b, -, hd, -⟩ | ⟨h5, h1, b, -, hd, -⟩
  · simp [variantAgrees, hd, htype]
  · simp [variantAgrees, hd, htype]
  · simp [variantAgrees, hd, h5, h1]

/-- A record decoded under REJECT has plain names: its owner and a Cname's target. -/
theorem decRecord_plainNames {e : Input} (hpol : e.params.extTagPolicy = .reject) {p : Nat}
    {r : ResourceRecord × Nat} (h : decRecord e p = some (.ok r)) :
    plainName r.1.name = true ∧ ∀ n, r.1.rdata = .cname n → plainName n = true := by
  obtain ⟨q, rdlen, hname, -, -, -, -, hdata⟩ := decRecord_eq_ok h
  refine ⟨decName_plain hpol hname, fun n hn => ?_⟩
  rcases decRdata_eq_ok hdata with ⟨-, m, hm, hd⟩ | ⟨-, b, -, hd, -⟩ | ⟨-, -, b, -, hd, -⟩
  · obtain rfl : m = n := RData.cname.inj (hd.symm.trans hn)
    exact decName_plain hpol hm
  · cases hd.symm.trans hn
  · cases hd.symm.trans hn

/-! The message. -/

/-- A decoded header's fields are the reads at their offsets (spec/43_message_decoder.md R201). -/
theorem decHeader_eq_ok {e : Input} {hd : Header} (h : decHeader e = some (.ok hd)) :
    rd16 e 0 .hdrTrunc = .ok hd.id ∧ rd16 e 2 .hdrTrunc = .ok hd.flags ∧ rd16 e 4 .hdrTrunc = .ok hd.qd ∧
      rd16 e 6 .hdrTrunc = .ok hd.an ∧ rd16 e 8 .hdrTrunc = .ok hd.ns ∧ rd16 e 10 .hdrTrunc = .ok hd.ar := by
  simp only [decHeader, once_eq_ok] at h
  obtain ⟨id, hid, flags, hflags, qd, hqd, an, han, ns, hns, ar, har, h⟩ := h
  cases h
  exact ⟨hid, hflags, hqd, han, hns, har⟩

/-- A decoded section holds as many records as asked for, and each of them is a result of the record procedure. -/
theorem decSection_shape {α : Type} {e : Input} {dec : Nat → Proc (α × Nat)} {count cur : Nat}
    {rs : List α × Nat} (h : decSection e dec count 0 cur = some (.ok rs)) :
    rs.1.length = count ∧ ∀ x ∈ rs.1, ∃ p q, dec p = some (.ok (x, q)) := by
  obtain ⟨hlen, -, hmem⟩ := decSection_eq_ok ((within_iff 0 _).mpr fun c _ => Nat.zero_le c) h
  exact ⟨hlen, hmem⟩

/-- A list as long as the count at offset `a` says. -/
theorem count_of_length {α : Type} {e : Input} {a : Nat} {v : U16} {l : List α} (hv : rd16 e a .hdrTrunc = .ok v)
    (hl : l.length = v.toNat) :
    rd16 e a .hdrTrunc = .ok (BitVec.ofNat 16 l.length) ∧ l.length < 65536 := by
  rw [hl, BitVec.ofNat_toNat, BitVec.setWidth_eq]
  exact ⟨hv, v.isLt⟩

/-- Settles O33: the counts are those the section walker was given, and every record is a result of DEC_QUESTION or
DEC_RR. -/
theorem decodedMessageIsWellShaped : Obligations.DecodedMessageIsWellShaped := by
  intro e m c h
  obtain ⟨hd, c₁, c₂, c₃, hhd, -, -, hqs, hans, hauth, hadd⟩ := decodeMsg_eq_ok h
  obtain ⟨-, -, hqd, han, hns, har⟩ := decHeader_eq_ok hhd
  obtain ⟨hqsLen, hqsMem⟩ := decSection_shape hqs
  obtain ⟨hansLen, hansMem⟩ := decSection_shape hans
  obtain ⟨hauthLen, hauthMem⟩ := decSection_shape hauth
  obtain ⟨haddLen, haddMem⟩ := decSection_shape hadd
  have hrecord : ∀ r ∈ m.answers ++ m.authority ++ m.additional, ∃ p q, decRecord e p = some (.ok (r, q)) := by
    intro r hr
    rcases List.mem_append.mp hr with hr | hr
    · exact (List.mem_append.mp hr).elim (hansMem r) (hauthMem r)
    · exact haddMem r hr
  refine ⟨count_of_length hqd hqsLen, count_of_length han hansLen, count_of_length hns hauthLen,
    count_of_length har haddLen, fun r hr => ?_, fun hpol => ⟨fun x hx => ?_, fun r hr => ?_⟩⟩
  · obtain ⟨p, q, hpq⟩ := hrecord r hr
    exact decRecord_variantAgrees hpq
  · obtain ⟨p, q, hpq⟩ := hqsMem x hx
    obtain ⟨_, hname, -⟩ := decQuestion_eq_ok hpq
    exact decName_plain hpol hname
  · obtain ⟨p, q, hpq⟩ := hrecord r hr
    exact decRecord_plainNames hpol hpq

end Sys2Proof.Machine
end

section
/-! PROOF. A decode at another LEN (spec/43_message_decoder.md R210): it gives what the decode at LEN gives, or it is
malformed; where it ends tells which. -/

namespace Sys2Proof.Machine

/-! The same reads, with another LEN. -/

/-- Where `full` gives a value, `cut` gives the same one or is malformed. -/
def SameOrMalformed {α : Type} (full cut : Proc α) : Prop :=
  ∀ a, full = some (.ok a) → cut = some (.ok a) ∨ ∃ why pos, cut = some (.err (.malformed why pos))

theorem SameOrMalformed.refl {α : Type} (r : Proc α) : SameOrMalformed r r := fun _ h => .inl h

/-- A chain goes on alike, or ends where its first part is malformed. -/
theorem SameOrMalformed.procThen {α β : Type} {r r' : Proc α} {k k' : α → Proc β} (hr : SameOrMalformed r r')
    (hk : ∀ a, SameOrMalformed (k a) (k' a)) : SameOrMalformed (procThen r k) (procThen r' k') := by
  intro b hb
  obtain ⟨a, ha, hb⟩ := procThen_eq_ok.mp hb
  rcases hr a ha with hr' | ⟨why, pos, hr'⟩
  · simpa [hr'] using hk a b hb
  · exact .inr ⟨why, pos, by rw [hr', procThen_err]⟩

theorem SameOrMalformed.once {α β : Type} {r r' : Res α} {k k' : α → Proc β}
    (hr : SameOrMalformed (some r) (some r')) (hk : ∀ a, SameOrMalformed (k a) (k' a)) :
    SameOrMalformed (once r k) (once r' k') :=
  hr.procThen hk

theorem SameOrMalformed.andThen {α β : Type} {r r' : Res α} {k k' : α → Res β}
    (hr : SameOrMalformed (some r) (some r')) (hk : ∀ a, SameOrMalformed (some (k a)) (some (k' a))) :
    SameOrMalformed (some (r.andThen k)) (some (r'.andThen k')) := by
  have some_andThen (r : Res α) (k : α → Res β) : some (r.andThen k) = Machine.once r fun a => some (k a) := by
    cases r <;> rfl
  simpa only [some_andThen] using hr.once hk

/-- `e` with another LEN. -/
abbrev Input.cut (e : Input) (len : Nat) : Input := { e with len := len }

section
variable (e : Input) (len : Nat)

theorem rdSlice_cut (a n : Nat) (why : MalReason) :
    SameOrMalformed (some (rdSlice e a n why)) (some (rdSlice (e.cut len) a n why)) := by
  intro bs h
  obtain ⟨-, rfl, hread⟩ := rdSlice_eq_ok (Option.some.inj h)
  by_cases hle : a + bs.length ≤ len
  · exact .inl (congrArg some (rdSlice_of_holds hread hle))
  · exact .inr ⟨why, a, congrArg some (rdSlice_past_len (Nat.not_le.mp hle))⟩

/-- A read that is a slice, its value spelled in bytes, fares as the slice does. -/
theorem read_cut {α : Type} {read : Input → Res α} {a n : Nat} {why : MalReason} {spell : α → Bytes}
    (hread : ∀ {f : Input} {r : Res α}, read f = r ↔ rdSlice f a n why = r.andThen fun v => .ok (spell v)) :
    SameOrMalformed (some (read e)) (some (read (e.cut len))) := by
  intro v h
  rcases rdSlice_cut e len a n why (spell v) (congrArg some (hread.mp (Option.some.inj h))) with hs | ⟨why', pos, hs⟩
  · exact .inl (congrArg some (hread.mpr (Option.some.inj hs)))
  · exact .inr ⟨why', pos, congrArg some (hread.mpr (Option.some.inj hs))⟩

theorem rd8_cut (a : Nat) (why : MalReason) :
    SameOrMalformed (some (rd8 e a why)) (some (rd8 (e.cut len) a why)) :=
  read_cut e len (read := (rd8 · a why)) rd8_eq_iff

theorem rd16_cut (a : Nat) (why : MalReason) :
    SameOrMalformed (some (rd16 e a why)) (some (rd16 (e.cut len) a why)) :=
  read_cut e len (read := (rd16 · a why)) rd16_eq_iff

theorem rd32_cut (a : Nat) (why : MalReason) :
    SameOrMalformed (some (rd32 e a why)) (some (rd32 (e.cut len) a why)) :=
  read_cut e len (read := (rd32 · a why)) rd32_eq_iff

/-- A label or a body is read before its capacity is checked, which is the same. -/
theorem labelStep_cut (n : NameRegs) (size : Nat) :
    SameOrMalformed (some (labelStep e n size)) (some (labelStep (e.cut len) n size)) :=
  (rdSlice_cut e len _ _ _).andThen fun _ => .refl _

theorem readBody_cut (p rdlen : Nat) :
    SameOrMalformed (some (readBody e p rdlen)) (some (readBody (e.cut len) p rdlen)) :=
  (rdSlice_cut e len _ _ _).andThen fun _ => .refl _

theorem extStep_cut (n : NameRegs) (tag : Nat) :
    SameOrMalformed (some (extStep e n tag)) (some (extStep (e.cut len) n tag)) := by
  unfold extStep
  cases e.params.extTagPolicy with
  | reject => exact .refl _
  | asLength => exact labelStep_cut e len n tag

/-- A pointer is followed to the same target unless the target lies past LEN. -/
theorem pointerStep_cut (n : NameRegs) (off : Nat) :
    SameOrMalformed (some (pointerStep e n off)) (some (pointerStep (e.cut len) n off)) := by
  intro n' h
  obtain ⟨-, hhops, rfl⟩ := pointerStep_eq_ok (Option.some.inj h)
  by_cases hoff : len ≤ off
  · exact .inr ⟨_, _, by rw [pointerStep, if_pos hoff]⟩
  · exact .inl (by rw [pointerStep, if_neg hoff, if_pos hhops])

/-! The procedures. -/

theorem decNameLoop_cut (fuel : Nat) (n : NameRegs) :
    SameOrMalformed (decNameLoop e fuel n) (decNameLoop (e.cut len) fuel n) := by
  induction fuel generalizing n with
  | zero => exact .refl _
  | succ fuel ih =>
    refine (rd8_cut e len _ _).once fun t => ?_
    split_ifs
    · exact .refl _
    · exact (rd8_cut e len _ _).once fun b1 => (pointerStep_cut e len n _).once ih
    · exact (labelStep_cut e len n _).once ih
    · exact (extStep_cut e len n _).once ih

/-- The bound of DEC_NAME depends on LEN, its result does not depend on the bound. -/
theorem decName_cut (start : Nat) : SameOrMalformed (decName e start) (decName (e.cut len) start) := by
  intro r h
  obtain ⟨x, hx⟩ := exists_decName_eq_some (e.cut len) start
  have hloop := decNameLoop_mono (Nat.le_max_left _ (nameBound (e.cut len))) h
  have hcut := decNameLoop_mono (Nat.le_max_right (nameBound e) _) hx
  have hsame := decNameLoop_cut e len _ _ r hloop
  rwa [hcut, ← hx] at hsame

theorem decRdata_cut (rtype : U16) (rdlen p : Nat) :
    SameOrMalformed (decRdata e rtype rdlen p) (decRdata (e.cut len) rtype rdlen p) := by
  unfold decRdata
  split_ifs
  · exact (decName_cut e len p).procThen fun _ => .refl _
  · exact (readBody_cut e len p rdlen).once fun _ => .refl _
  · exact (readBody_cut e len p rdlen).once fun _ => .refl _

theorem decHeader_cut : SameOrMalformed (decHeader e) (decHeader (e.cut len)) :=
  (rd16_cut e len _ _).once fun _ => (rd16_cut e len _ _).once fun _ => (rd16_cut e len _ _).once fun _ =>
    (rd16_cut e len _ _).once fun _ => (rd16_cut e len _ _).once fun _ => (rd16_cut e len _ _).once fun _ => .refl _

theorem decQuestion_cut (p : Nat) : SameOrMalformed (decQuestion e p) (decQuestion (e.cut len) p) :=
  (decName_cut e len p).procThen fun _ => (rd16_cut e len _ _).once fun _ => (rd16_cut e len _ _).once fun _ => .refl _

theorem decRecord_cut (p : Nat) : SameOrMalformed (decRecord e p) (decRecord (e.cut len) p) :=
  (decName_cut e len p).procThen fun _ => (rd16_cut e len _ _).once fun _ => (rd16_cut e len _ _).once fun _ =>
    (rd32_cut e len _ _).once fun _ => (rd16_cut e len _ _).once fun _ =>
    (decRdata_cut e len _ _ _).procThen fun _ => .refl _

/-- REC_CAP is checked against the same index. -/
theorem decSection_cut {α : Type} {dec dec' : Nat → Proc (α × Nat)} (hdec : ∀ p, SameOrMalformed (dec p) (dec' p))
    (left idx cur : Nat) :
    SameOrMalformed (decSection e dec left idx cur) (decSection (e.cut len) dec' left idx cur) := by
  induction left generalizing idx cur with
  | zero => exact .refl _
  | succ left ih =>
    unfold decSection
    split_ifs
    · exact (hdec cur).procThen fun r => (ih (idx + 1) r.2).procThen fun _ => .refl _
    · exact .refl _

theorem decodeMsg_cut : SameOrMalformed (decodeMsg e) (decodeMsg (e.cut len)) :=
  (decHeader_cut e len).procThen fun _ =>
    (decSection_cut e len (decQuestion_cut e len) _ _ _).procThen fun _ =>
    (decSection_cut e len (decRecord_cut e len) _ _ _).procThen fun _ =>
    (decSection_cut e len (decRecord_cut e len) _ _ _).procThen fun _ =>
    (decSection_cut e len (decRecord_cut e len) _ _ _).procThen fun _ => .refl _

end

/-! Where a decode ends. -/

/-- Record data ends inside LEN. -/
theorem decRdata_end_le {e : Input} {rtype : U16} {rdlen p : Nat} {r : RData × Nat}
    (h : decRdata e rtype rdlen p = some (.ok r)) : r.2 ≤ e.len := by
  rcases decRdata_eq_ok h with ⟨-, n, hn, -⟩ | ⟨-, b, hb, -, hq⟩ | ⟨-, -, b, hb, -, hq⟩
  · exact (nameDecodeAdvancesInsideLen _ _ _ _ hn).2
  · exact hq ▸ (readBody_eq_ok hb).1
  · exact hq ▸ (readBody_eq_ok hb).1

/-- A section that begins inside LEN ends inside LEN if its records do. -/
theorem decSection_end_le {α : Type} {e : Input} {dec : Nat → Proc (α × Nat)} {left idx cur : Nat}
    {rs : List α × Nat} (hdec : ∀ p r, dec p = some (.ok r) → r.2 ≤ e.len) (hcur : cur ≤ e.len)
    (h : decSection e dec left idx cur = some (.ok rs)) : rs.2 ≤ e.len := by
  induction left generalizing idx cur rs with
  | zero =>
    cases h
    exact hcur
  | succ left ih =>
    unfold decSection at h
    split_ifs at h
    swap
    · cases h
    obtain ⟨r, hr, h⟩ := procThen_eq_ok.mp h
    obtain ⟨rest, hrest, h⟩ := procThen_eq_ok.mp h
    cases h
    exact ih (rs := rest) (hdec cur r hr) hrest

/-- A decoded message ends inside LEN: each of its parts does. -/
theorem decodeMsg_end_le {e : Input} {r : Message × Nat} (h : decodeMsg e = some (.ok r)) : r.2 ≤ e.len := by
  have question (p : Nat) (q : QuestionRecord × Nat) (h : decQuestion e p = some (.ok q)) : q.2 ≤ e.len := by
    obtain ⟨q', -, -, hclass, hend⟩ := decQuestion_eq_ok h
    exact hend ▸ (rd16_eq_ok hclass).1
  have record (p : Nat) (q : ResourceRecord × Nat) (h : decRecord e p = some (.ok q)) : q.2 ≤ e.len := by
    obtain ⟨q', rdlen, -, -, -, -, -, hdata⟩ := decRecord_eq_ok h
    exact decRdata_end_le hdata
  obtain ⟨hd, c₁, c₂, c₃, hhd, -, -, hqs, hans, hauth, hadd⟩ := decodeMsg_eq_ok h
  obtain ⟨-, -, -, -, -, har⟩ := decHeader_eq_ok hhd
  have h₁ := decSection_end_le question (rd16_eq_ok har).1 hqs
  have h₂ := decSection_end_le record h₁ hans
  have h₃ := decSection_end_le record h₂ hauth
  exact decSection_end_le record h₃ hadd

/-- Settles O35: the shorter decode gives the same message or is malformed, and the message ends past its LEN. -/
theorem truncatedPrefixIsMalformed : Obligations.TruncatedPrefixIsMalformed := by
  intro e m h n hn
  refine (decodeMsg_cut e n (m, e.len) h).resolve_left fun hcut => ?_
  exact Nat.not_le.mpr hn (decodeMsg_end_le hcut)

end Sys2Proof.Machine
end

section
/-! PROOF. The encoder's header and record format (spec/44_message_encoder.md R221, R222, R224, R225): the counts, and
RDLENGTH. -/

namespace Sys2Proof.Machine

/-- A record whose two parts encode is refused if its data passes 65535 bytes, and else carries their length. -/
theorem encRecord_of_parts {max : LabelEncMax} {r : ResourceRecord} {base : Nat} {nb rd : Bytes}
    (hname : encName max r.name base = .ok nb) (hdata : encRdata max r.rdata (base + nb.length + 10) = .ok rd) :
    encRecord max r base =
      if 0xFFFF < rd.length then .error (.capacity .rdlen16 (base + nb.length + 8))
      else .ok (nb ++ (be16 r.rtype ++ be16 r.rclass ++ be32 r.ttl) ++ be16Length rd.length ++ rd) := by
  simp only [encRecord, hname, hdata]

/-- Settles O40: RDLENGTH is computed from the encoded data. -/
theorem encodedRdlengthIsDerived : Obligations.EncodedRdlengthIsDerived := by
  intro max r base nb rd hname hdata
  rw [encRecord_of_parts hname hdata]
  refine ⟨fun hle => ?_, fun hlt => if_pos hlt⟩
  rw [if_neg (Nat.not_lt.mpr hle)]
  simp only [be16Length, List.append_assoc]

/-- CHECK_COUNTS passes exactly the messages whose counts fit 16 bits (R222). -/
theorem checkCounts_eq_ok_iff {m : Message} :
    checkCounts m = .ok () ↔ m.questions.length ≤ 65535 ∧ m.answers.length ≤ 65535 ∧ m.authority.length ≤ 65535 ∧
      m.additional.length ≤ 65535 := by
  unfold checkCounts
  split_ifs <;> simp <;> omega

/-- ENC_CORE begins with CHECK_COUNTS. -/
theorem encCore_of_checkCounts_error {max : LabelEncMax} {m : Message} {x : Err} (h : checkCounts m = .error x) :
    encCore max m = .error x := by
  rw [encCore, h]

/-- Encoders only append to the output. -/
theorem encodeAll_eq_ok {fs : List Encoder} {out bs : Bytes} (h : encodeAll fs out = .ok bs) :
    ∃ rest, bs = out ++ rest := by
  induction fs generalizing out with
  | nil =>
    cases h
    exact ⟨[], (List.append_nil _).symm⟩
  | cons f fs ih =>
    rw [encodeAll_cons] at h
    cases hf : f out.length with
    | error x =>
      rw [hf] at h
      cases h
    | ok b =>
      rw [hf] at h
      obtain ⟨rest, hrest⟩ := ih h
      exact ⟨b ++ rest, by rw [hrest, List.append_assoc]⟩

/-- A message that encodes has passed CHECK_COUNTS, and its bytes begin with its header. -/
theorem encCore_eq_ok {max : LabelEncMax} {m : Message} {bs : Bytes} (h : encCore max m = .ok bs) :
    checkCounts m = .ok () ∧ ∃ body, bs = encHeader m ++ body := by
  rw [encCore_eq, checkedHeader] at h
  cases hcounts : checkCounts m with
  | error x =>
    rw [hcounts] at h
    cases h
  | ok u =>
    rw [hcounts] at h
    exact ⟨rfl, encodeAll_eq_ok h⟩

/-- Settles O38: CHECK_COUNTS tests the lists in order, and the records are appended to the header. -/
theorem encodedCountsAreListLengths : Obligations.EncodedCountsAreListLengths := by
  intro max m
  refine ⟨fun bs h => ?_, fun hqs => ?_, fun hqs hans => ?_, fun hqs hans hauth => ?_, fun hqs hans hauth hadd => ?_⟩
  · obtain ⟨hcounts, body, hbody⟩ := encCore_eq_ok h
    obtain ⟨hqs, hans, hauth, hadd⟩ := checkCounts_eq_ok_iff.mp hcounts
    exact ⟨hqs, hans, hauth, hadd, body, hbody⟩
  · exact encCore_of_checkCounts_error (by simp [checkCounts, hqs])
  · exact encCore_of_checkCounts_error (by simp [checkCounts, Nat.not_lt.mpr hqs, hans])
  · exact encCore_of_checkCounts_error (by simp [checkCounts, Nat.not_lt.mpr hqs, Nat.not_lt.mpr hans, hauth])
  · exact encCore_of_checkCounts_error (by
      simp [checkCounts, Nat.not_lt.mpr hqs, Nat.not_lt.mpr hans, Nat.not_lt.mpr hauth, hadd])

end Sys2Proof.Machine
end

section
/-! PROOF. The round trip (spec/44_message_encoder.md R229): what each encoder writes for a well-formed part of a message,
and that the decoder reads that part back from it. -/

namespace Sys2Proof.Machine

/-! What the encoder writes. -/

/-- A name on the wire. -/
def nameWire (n : DomainName) : Bytes := spelling n ++ [0x00#8]

/-- A question on the wire (R223). -/
def questionWire (q : QuestionRecord) : Bytes := nameWire q.name ++ (be16 q.qtype ++ be16 q.qclass)

/-- Record data on the wire. -/
def rdataWire : RData → Bytes
  | .cname n => nameWire n
  | .a b => b
  | .opaq b => b

/-- A resource record on the wire (R224). -/
def recordWire (r : ResourceRecord) : Bytes :=
  nameWire r.name ++ (be16 r.rtype ++ (be16 r.rclass ++ (be32 r.ttl ++
    (be16Length (rdataWire r.rdata).length ++ rdataWire r.rdata))))

/-- A question is its name and two fields. -/
theorem questionWire_length (q : QuestionRecord) : (questionWire q).length = (nameWire q.name).length + 4 := by
  simp [questionWire]

/-- A record is its name, ten bytes of fields and its data. -/
theorem recordWire_length (r : ResourceRecord) :
    (recordWire r).length = (nameWire r.name).length + 10 + (rdataWire r.rdata).length := by
  simp only [recordWire, be16Length, List.length_append, be16_length, be32_length]
  omega

/-- A message on the wire (R220), section after section. -/
def messageWire (m : Message) : Bytes :=
  encHeader m ++ (m.questions.flatMap questionWire ++ (m.answers.flatMap recordWire ++
    (m.authority.flatMap recordWire ++ m.additional.flatMap recordWire)))

/-- A plain label fits either LABEL_ENC_MAX, so a plain name encodes. -/
theorem encName_of_plain {max : LabelEncMax} {n : DomainName} (h : plainName n = true) (base : Nat) :
    encName max n base = .ok (nameWire n) := by
  refine encName_of_fits (fun l hl => ?_) base
  have hmax : 63 ≤ labelMax max := by cases max <;> decide
  have hl := List.all_eq_true.mp h l hl
  simp only [Bool.and_eq_true, decide_eq_true_eq] at hl
  omega

theorem encQuestion_of_plain {max : LabelEncMax} {q : QuestionRecord} (h : plainName q.name = true) (base : Nat) :
    encQuestion max q base = .ok (questionWire q) := by
  simp only [encQuestion, encName_of_plain h, questionWire, List.append_assoc]

theorem encRdata_of_plain {max : LabelEncMax} {d : RData} (h : plainRdata d = true) (base : Nat) :
    encRdata max d base = .ok (rdataWire d) := by
  cases d with
  | cname n =>
    obtain ⟨hplain, -⟩ := Bool.and_eq_true_iff.mp h
    exact encName_of_plain hplain base
  | a b => rfl
  | opaq b => rfl

/-- Plain record data fits RDLENGTH (W4). -/
theorem rdataWire_length_le {d : RData} (h : plainRdata d = true) : (rdataWire d).length ≤ 65535 := by
  cases d with
  | cname n =>
    obtain ⟨-, hlen⟩ := Bool.and_eq_true_iff.mp h
    simpa [rdataWire, nameWire, enclen_eq_spelling_length] using hlen
  | a b => exact of_decide_eq_true h
  | opaq b => exact of_decide_eq_true h

/-- What makes a record plain: W1, W2 and W4. -/
theorem plainRecord_iff {r : ResourceRecord} :
    plainRecord r = true ↔ plainName r.name = true ∧ variantAgrees r = true ∧ plainRdata r.rdata = true := by
  simp [plainRecord, and_assoc]

theorem encRecord_of_plain {max : LabelEncMax} {r : ResourceRecord} (h : plainRecord r = true) (base : Nat) :
    encRecord max r base = .ok (recordWire r) := by
  obtain ⟨hname, -, hdata⟩ := plainRecord_iff.mp h
  rw [encRecord_of_parts (encName_of_plain hname base) (encRdata_of_plain hdata _),
    if_neg (Nat.not_lt.mpr (rdataWire_length_le hdata))]
  simp only [recordWire, List.append_assoc]

/-- A section whose items encode is their bytes, one after the other. -/
theorem encEach_of_wire {α : Type} {enc : α → Encoder} {wire : α → Bytes} {xs : List α}
    (h : ∀ x ∈ xs, ∀ base, enc x base = .ok (wire x)) (out : Bytes) :
    encEach enc xs out = .ok (out ++ xs.flatMap wire) := by
  induction xs generalizing out with
  | nil => simp [encEach]
  | cons x xs ih =>
    obtain ⟨hx, hxs⟩ := List.forall_mem_cons.mp h
    simp [encEach, hx, ih hxs]

/-! What the decoder reads. -/

/-- The procedure gives `x` wherever IBUF holds `bs` inside LEN, and ends just past these bytes. -/
def ReadsBack {α : Type} (e : Input) (dec : Nat → Proc (α × Nat)) (bs : Bytes) (x : α) : Prop :=
  ∀ a, e.ibuf.holds a bs → a + bs.length ≤ e.len → dec a = some (.ok (x, a + bs.length))

section
variable {α β : Type} {e : Input} {a : Nat} {y : Proc β}

/-- A procedure that reads a part back hands it on. -/
theorem ReadsBack.procThen {dec : Nat → Proc (α × Nat)} {bs : Bytes} {x : α} (h : ReadsBack e dec bs x)
    {k : α × Nat → Proc β} (hread : e.ibuf.holds a bs) (hle : a + bs.length ≤ e.len)
    (hk : k (x, a + bs.length) = y) : procThen (dec a) k = y := by
  rw [h a hread hle, procThen_ok, hk]

theorem once_rd16_of_holds {why : MalReason} {v : U16} {k : U16 → Proc β} (h : e.ibuf.holds a (be16 v))
    (hle : a + 2 ≤ e.len) (hk : k v = y) : once (rd16 e a why) k = y := by
  have hv : rd16 e a why = .ok v := rd16_eq_iff.mpr (rdSlice_of_holds h hle)
  rw [hv, once_ok, hk]

theorem once_rd32_of_holds {why : MalReason} {v : U32} {k : U32 → Proc β} (h : e.ibuf.holds a (be32 v))
    (hle : a + 4 ≤ e.len) (hk : k v = y) : once (rd32 e a why) k = y := by
  have hv : rd32 e a why = .ok v := rd32_eq_iff.mpr (rdSlice_of_holds h hle)
  rw [hv, once_ok, hk]

end

/-- A count that fits 16 bits is read as itself. -/
theorem count_toNat {n : Nat} (h : n ≤ 65535) : (BitVec.ofNat 16 n).toNat = n := by
  rw [BitVec.toNat_ofNat]
  omega

theorem decName_readsBack {e : Input} {n : DomainName} (hplain : plainName n = true)
    (hcap : within (enclen n) e.params.nameCap = true) : ReadsBack e (decName e) (nameWire n) n := by
  intro a hread hle
  obtain ⟨hlen, hdec⟩ := spelledNameDecodesToItself e a n (nameWire n) hplain (encName_of_plain hplain 0) hread hle
    ((within_iff _ _).mp hcap)
  rw [hdec, hlen]

theorem decQuestion_readsBack {e : Input} {q : QuestionRecord} (hplain : plainName q.name = true)
    (hcap : within (enclen q.name) e.params.nameCap = true) : ReadsBack e (decQuestion e) (questionWire q) q := by
  intro a hread hle
  obtain ⟨hname, hread⟩ := Memory.holds_append.mp hread
  obtain ⟨hqtype, hqclass⟩ := Memory.holds_append.mp hread
  rw [questionWire_length] at hle ⊢
  refine (decName_readsBack hplain hcap).procThen hname (by omega) ?_
  exact once_rd16_of_holds hqtype (by omega) (once_rd16_of_holds hqclass (by omega) rfl)

/-- A body inside LEN that RDATA_CAP holds is read. -/
theorem readBody_of_fits {e : Input} {a : Nat} {b : Bytes} (hcap : within b.length e.params.rdataCap = true)
    (hread : e.ibuf.holds a b) (hle : a + b.length ≤ e.len) : readBody e a b.length = .ok b := by
  rw [readBody_of_holds hread hle, if_pos hcap]

/-- DEC_RDATA reads record data back under a TYPE that agrees with its variant. -/
theorem decRdata_readsBack {e : Input} {r : ResourceRecord} (hagrees : variantAgrees r = true)
    (hplain : plainRdata r.rdata = true) (hfits : rdataFits e.params r.rdata = true) :
    ReadsBack e (decRdata e r.rtype (rdataWire r.rdata).length) (rdataWire r.rdata) r.rdata := by
  intro a hread hle
  unfold variantAgrees at hagrees
  unfold decRdata
  cases hd : r.rdata with
  | cname n =>
    rw [hd] at hagrees hplain hfits hread hle
    obtain ⟨hname, -⟩ := Bool.and_eq_true_iff.mp hplain
    rw [if_pos (of_decide_eq_true hagrees)]
    exact (decName_readsBack hname hfits).procThen hread hle rfl
  | a b =>
    rw [hd] at hagrees hfits hread hle
    have htype : r.rtype = 0x0001#16 := of_decide_eq_true hagrees
    rw [htype, if_neg (by decide), if_pos rfl]
    rw [show rdataWire (.a b) = b from rfl, readBody_of_fits hfits hread hle]
    rfl
  | opaq b =>
    rw [hd] at hagrees hfits hread hle
    simp only [Bool.and_eq_true, decide_eq_true_eq] at hagrees
    obtain ⟨h1, h5⟩ := hagrees
    rw [if_neg h5, if_neg h1, show rdataWire (.opaq b) = b from rfl, readBody_of_fits hfits hread hle]
    rfl

theorem decRecord_readsBack {e : Input} {r : ResourceRecord} (hplain : plainRecord r = true)
    (hfits : recordFits e.params r = true) : ReadsBack e (decRecord e) (recordWire r) r := by
  intro a hread hle
  obtain ⟨hname, hagrees, hdata⟩ := plainRecord_iff.mp hplain
  obtain ⟨hnameFits, hdataFits⟩ := Bool.and_eq_true_iff.mp hfits
  obtain ⟨hreadName, hread⟩ := Memory.holds_append.mp hread
  obtain ⟨hrtype, hread⟩ := Memory.holds_append.mp hread
  obtain ⟨hrclass, hread⟩ := Memory.holds_append.mp hread
  obtain ⟨httl, hread⟩ := Memory.holds_append.mp hread
  obtain ⟨hrdlen, hread⟩ := Memory.holds_append.mp hread
  rw [recordWire_length] at hle
  rw [recordWire_length, ← Nat.add_assoc, ← Nat.add_assoc]
  refine (decName_readsBack hname hnameFits).procThen hreadName (by omega) ?_
  refine once_rd16_of_holds hrtype (by omega) (once_rd16_of_holds hrclass (by omega) ?_)
  refine once_rd32_of_holds httl (by omega) (once_rd16_of_holds hrdlen (by omega) ?_)
  rw [count_toNat (rdataWire_length_le hdata)]
  exact (decRdata_readsBack hagrees hdata hdataFits).procThen hread (by omega) rfl

/-- DEC_SECTION reads a section back whose items are read back, if REC_CAP holds them. -/
theorem decSection_readsBack {α : Type} {e : Input} {dec : Nat → Proc (α × Nat)} {wire : α → Bytes} {xs : List α}
    (h : ∀ x ∈ xs, ReadsBack e dec (wire x) x) {idx : Nat}
    (hcap : within (idx + xs.length) e.params.recCap = true) :
    ReadsBack e (decSection e dec xs.length idx) (xs.flatMap wire) xs := by
  induction xs generalizing idx with
  | nil => exact fun a _ _ => rfl
  | cons x xs ih =>
    intro a hread hle
    obtain ⟨hx, hxs⟩ := List.forall_mem_cons.mp h
    rw [List.flatMap_cons] at hread hle ⊢
    obtain ⟨hreadx, hreadxs⟩ := Memory.holds_append.mp hread
    rw [List.length_append] at hle ⊢
    rw [List.length_cons] at hcap ⊢
    rw [decSection, if_pos (within_of_le (by omega) hcap), ← Nat.add_assoc]
    refine hx.procThen hreadx (by omega) ?_
    exact (ih hxs (by rwa [Nat.add_assoc, Nat.add_comm 1])).procThen hreadxs (by omega) rfl

/-- The header of a message: its counts are the list lengths. -/
def headerOf (m : Message) : Header where
  id := m.id
  flags := m.flags
  qd := BitVec.ofNat 16 m.questions.length
  an := BitVec.ofNat 16 m.answers.length
  ns := BitVec.ofNat 16 m.authority.length
  ar := BitVec.ofNat 16 m.additional.length

theorem decHeader_of_encHeader {e : Input} {m : Message} (hread : e.ibuf.holds 0 (encHeader m)) (hle : 12 ≤ e.len) :
    decHeader e = some (.ok (headerOf m)) := by
  simp only [encHeader, be16Length, Memory.holds_append] at hread
  obtain ⟨⟨⟨⟨⟨hid, hflags⟩, hqd⟩, han⟩, hns⟩, har⟩ := hread
  refine once_rd16_of_holds hid (by omega) (once_rd16_of_holds hflags (by omega) ?_)
  refine once_rd16_of_holds hqd (by omega) (once_rd16_of_holds han (by omega) ?_)
  exact once_rd16_of_holds hns (by omega) (once_rd16_of_holds har (by omega) rfl)

/-! Well-formed messages. -/

/-- What W1 to W5 say of one section: its length fits the count and REC_CAP, and each of its items is good. -/
structure GoodSection {α : Type} (p : Params) (good : α → Prop) (xs : List α) : Prop where
  count : xs.length ≤ 65535
  fits : within xs.length p.recCap = true
  items : ∀ x ∈ xs, good x

/-- W1 and W5 for a question. -/
def GoodQuestion (p : Params) (q : QuestionRecord) : Prop :=
  plainName q.name = true ∧ within (enclen q.name) p.nameCap = true

/-- W1, W2, W4 and W5 for a resource record. -/
def GoodRecord (p : Params) (r : ResourceRecord) : Prop := plainRecord r = true ∧ recordFits p r = true

/-- A well-formed message is four good sections. -/
theorem goodSections_of_wellFormed {p : Params} {m : Message} (h : wellFormedMessage p m = true) :
    GoodSection p (GoodQuestion p) m.questions ∧ GoodSection p (GoodRecord p) m.answers ∧
      GoodSection p (GoodRecord p) m.authority ∧ GoodSection p (GoodRecord p) m.additional := by
  simp only [wellFormedMessage, messageFits, Bool.and_eq_true, decide_eq_true_eq, List.all_eq_true, and_assoc] at h
  obtain ⟨hqsCap, hansCap, hauthCap, haddCap, hqsFit, hansFit, hauthFit, haddFit, hqs, hans, hauth, hadd,
    hqsPlain, hansPlain, hauthPlain, haddPlain⟩ := h
  exact ⟨⟨hqs, hqsCap, fun x hx => ⟨hqsPlain x hx, hqsFit x hx⟩⟩,
    ⟨hans, hansCap, fun x hx => ⟨hansPlain x hx, hansFit x hx⟩⟩,
    ⟨hauth, hauthCap, fun x hx => ⟨hauthPlain x hx, hauthFit x hx⟩⟩,
    ⟨hadd, haddCap, fun x hx => ⟨haddPlain x hx, haddFit x hx⟩⟩⟩

/-- The walker reads a good section back, by the count its header field holds. -/
theorem GoodSection.readsBack {α : Type} {e : Input} {good : α → Prop} {xs : List α}
    (h : GoodSection e.params good xs) {dec : Nat → Proc (α × Nat)} {wire : α → Bytes}
    (hdec : ∀ x, good x → ReadsBack e dec (wire x) x) :
    ReadsBack e (decSection e dec (BitVec.ofNat 16 xs.length).toNat 0) (xs.flatMap wire) xs := by
  rw [count_toNat h.count]
  exact decSection_readsBack (fun x hx => hdec x (h.items x hx)) (by rw [Nat.zero_add]; exact h.fits)

/-- A well-formed message encodes to its bytes. -/
theorem encCore_of_wellFormed {p : Params} {m : Message} (h : wellFormedMessage p m = true) (max : LabelEncMax) :
    encCore max m = .ok (messageWire m) := by
  obtain ⟨hqs, hans, hauth, hadd⟩ := goodSections_of_wellFormed h
  have record {rs : List ResourceRecord} (hrs : GoodSection p (GoodRecord p) rs) :
      ∀ r ∈ rs, ∀ base, encRecord max r base = .ok (recordWire r) :=
    fun r hr => encRecord_of_plain (hrs.items r hr).1
  have question : ∀ q ∈ m.questions, ∀ base, encQuestion max q base = .ok (questionWire q) :=
    fun q hq => encQuestion_of_plain (hqs.items q hq).1
  have hcounts : checkCounts m = .ok () :=
    checkCounts_eq_ok_iff.mpr ⟨hqs.count, hans.count, hauth.count, hadd.count⟩
  simp only [encCore, hcounts, encEach_of_wire question, encEach_of_wire (record hans),
    encEach_of_wire (record hauth), encEach_of_wire (record hadd), messageWire, List.append_assoc]

/-- The bytes of a well-formed message decode to it, and CUR ends just past them. -/
theorem decodeMsg_of_wellFormed {e : Input} {m : Message} (h : wellFormedMessage e.params m = true)
    (hread : e.ibuf.holds 0 (messageWire m)) (hle : (messageWire m).length ≤ e.len) :
    decodeMsg e = some (.ok (m, (messageWire m).length)) := by
  obtain ⟨hqs, hans, hauth, hadd⟩ := goodSections_of_wellFormed h
  have question (q : QuestionRecord) (hq : GoodQuestion e.params q) :
      ReadsBack e (decQuestion e) (questionWire q) q := decQuestion_readsBack hq.1 hq.2
  have record (r : ResourceRecord) (hr : GoodRecord e.params r) : ReadsBack e (decRecord e) (recordWire r) r :=
    decRecord_readsBack hr.1 hr.2
  obtain ⟨hreadHeader, hread⟩ := Memory.holds_append.mp hread
  obtain ⟨hreadQs, hread⟩ := Memory.holds_append.mp hread
  obtain ⟨hreadAns, hread⟩ := Memory.holds_append.mp hread
  obtain ⟨hreadAuth, hreadAdd⟩ := Memory.holds_append.mp hread
  have hheader : (encHeader m).length = 12 := rfl
  rw [hheader, Nat.zero_add] at hreadQs hreadAns hreadAuth hreadAdd
  simp only [messageWire, List.length_append, hheader] at hle ⊢
  rw [decodeMsg, decHeader_of_encHeader hreadHeader (by omega), procThen_ok]
  dsimp only [headerOf]
  refine (hqs.readsBack question).procThen hreadQs (by omega) ?_
  refine (hans.readsBack record).procThen hreadAns (by omega) ?_
  refine (hauth.readsBack record).procThen hreadAuth (by omega) ?_
  refine (hadd.readsBack record).procThen hreadAdd (by omega) ?_
  simp only [Nat.add_assoc]

/-- Settles O37: each encoder writes the bytes that its decoder reads back, and the message is their concatenation. -/
theorem roundTripOfWellFormedMessages : Obligations.RoundTripOfWellFormedMessages := by
  intro p m h
  have henc : encCore p.labelEncMax m = .ok (messageWire m) := encCore_of_wellFormed h p.labelEncMax
  refine ⟨messageWire m, henc, fun hobuf hibuf => ⟨?_, fun ibuf hread => ?_⟩⟩
  · rw [encodeResult, henc, fitOutput, if_pos hobuf]
  · rw [decodeResult, if_neg (Nat.not_lt.mpr hibuf)]
    exact decodeMsg_of_wellFormed h hread le_rfl

end Sys2Proof.Machine
end

section
/-! PROOF. The four commands (spec/45_host_commands.md R241 to R245): acceptance, the illegal command, a command while
BUSY, and their frame. -/

namespace Sys2Proof.Machine

/-! A command by the phase. -/

theorem State.whenIdle_idle {s : State} (h : s.phase = .idle) (u : State) : s.whenIdle u = .next u := by
  rw [State.whenIdle, h]

theorem State.whenIdle_busy {s : State} (h : s.phase = .busy) (u : State) : s.whenIdle u = .next s := by
  rw [State.whenIdle, h]

/-- NOP changes nothing in either phase (R241). -/
theorem exec_cmdNop (x : BitVec 24) (s : State) : exec (.cmdNop x) s = .next s := by
  cases hp : s.phase with
  | idle => exact State.whenIdle_idle hp s
  | busy => exact State.whenIdle_busy hp s

/-- A command while BUSY changes nothing, whichever it is (R245). -/
theorem exec_decodeCmd_busy {s : State} (h : s.phase = .busy) (v : U32) : exec (decodeCmd v) s = .next s := by
  rw [decodeCmd]
  split_ifs <;> exact State.whenIdle_busy h _

/-- The step that takes a CMD write off the host's program runs the command that the word selects. -/
theorem step_of_cmdWrite {s : State} {v : U32} {rest : List HostEvent} {i : Instr}
    (hh : s.host = .bus (.write 0x00#18 .w32 v) :: rest) (hi : decode (.cmd v) = .ok i) :
    step s = exec i { s with host := rest } := by
  obtain ⟨-, -, hcmd⟩ := stepRunsDecodedInstruction
  exact hcmd s v rest i hh hi

/-! The statements. -/

/-- Settles O19: the low byte 0 selects NOP. -/
theorem nopChangesNothing : Obligations.NopChangesNothing := by
  refine ⟨exec_cmdNop, fun s v rest hv hh => ?_⟩
  obtain ⟨hnop, -⟩ := lowByteSelectsCommand v
  obtain ⟨x, hx⟩ := hnop hv
  exact (step_of_cmdWrite hh hx).trans (exec_cmdNop x _)

/-- Settles O20: whatever command the word selects. -/
theorem commandWhileBusyIsIgnored : Obligations.CommandWhileBusyIsIgnored :=
  fun s v rest hp hh => (step_of_cmdWrite hh rfl).trans (exec_decodeCmd_busy (s := { s with host := rest }) hp v)

/-- Settles O21: the next state is `State.acceptDecode`. -/
theorem decodeIsAccepted : Obligations.DecodeIsAccepted := fun s _ hp =>
  ⟨s.acceptDecode, State.whenIdle_idle hp _, rfl, rfl, rfl, rfl, rfl, rfl, rfl, rfl, rfl, rfl, rfl⟩

/-- Settles O22: the next state is `State.acceptEncode`. -/
theorem encodeIsAccepted : Obligations.EncodeIsAccepted := fun s _ hp =>
  ⟨s.acceptEncode, State.whenIdle_idle hp _, rfl, rfl, rfl, rfl, rfl, rfl, rfl, rfl, rfl, rfl⟩

/-- The STATUS word of an illegal command: DONE, ERR, kind 4 and the opcode (R244). -/
theorem statusFailure_illegalCmd (o : Byte) :
    statusFailure (.illegalCmd o) = (o.setWidth 32 <<< 8) ||| 0x46#32 := by
  apply BitVec.eq_of_toNat_eq
  have hlt := o.isLt
  have hshift : (o.setWidth 32 <<< 8 : U32).toNat = o.toNat <<< 8 := by
    rw [BitVec.toNat_shiftLeft, BitVec.toNat_setWidth, Nat.shiftLeft_eq, Nat.shiftLeft_eq]
    omega
  rw [statusFailure_toNat, BitVec.toNat_or, hshift, BitVec.toNat_ofNat,
    ← Nat.shiftLeft_add_eq_or_of_lt (by decide), Nat.shiftLeft_eq]
  simp [errReason, errKind]

/-- An illegal command while IDLE (R244). -/
theorem exec_cmdIllegal_idle {s : State} (h : s.phase = .idle) (x : BitVec 24) (o : Byte) :
    exec (.cmdIllegal x o) s =
      .next { s with status := (o.setWidth 32 <<< 8) ||| 0x46#32, errPos := 0#16, phase := .idle } := by
  rw [← statusFailure_illegalCmd]
  exact State.whenIdle_idle h _

/-- Settles O23: the opcode is the low byte of the word. -/
theorem illegalCommandReportsItsOpcode : Obligations.IllegalCommandReportsItsOpcode := by
  refine ⟨fun s x o hp => exec_cmdIllegal_idle hp x o, fun s v rest hp hh hv => ?_⟩
  obtain ⟨-, -, -, hillegal⟩ := lowByteSelectsCommand v
  obtain ⟨x, o, hx, -⟩ := hillegal hv
  have hword : x ++ o = v := by
    obtain ⟨-, hencode⟩ := encode_decodeCmd v
    rw [show decodeCmd v = .cmdIllegal x o from Except.ok.inj hx] at hencode
    exact Code.cmd.inj hencode
  rw [step_of_cmdWrite hh hx, ← hword, append_low_byte]
  exact exec_cmdIllegal_idle (s := { s with host := rest }) hp x o

/-- What a command row that answers a next state did. -/
theorem exec_command_next {i : Instr} {s t : State} {x : BitVec 24} {o : Byte}
    (hi : i = .cmdNop x ∨ i = .cmdDecode x ∨ i = .cmdEncode x ∨ i = .cmdIllegal x o) (h : exec i s = .next t) :
    t = s ∨ (i = .cmdDecode x ∧ t = s.acceptDecode) ∨ (i = .cmdEncode x ∧ t = s.acceptEncode) ∨
      (i = .cmdIllegal x o ∧ t = s.raise .illegal (.illegalCmd o)) := by
  rcases hi with rfl | rfl | rfl | rfl
  · exact (State.whenIdle_next h).elim (fun ⟨_, ht⟩ => .inl ht) fun ⟨_, ht⟩ => .inl ht
  · exact (State.whenIdle_next h).imp (·.2) fun ⟨_, ht⟩ => .inl ⟨rfl, ht⟩
  · exact (State.whenIdle_next h).imp (·.2) fun ⟨_, ht⟩ => .inr (.inl ⟨rfl, ht⟩)
  · exact (State.whenIdle_next h).imp (·.2) fun ⟨_, ht⟩ => .inr (.inr ⟨rfl, ht⟩)

/-- Settles O24: a command changes nothing, is accepted, or enters its error. -/
theorem commandFrame : Obligations.CommandFrame := by
  intro i s t x o hi h
  rcases exec_command_next hi h with rfl | ⟨rfl, rfl⟩ | ⟨rfl, rfl⟩ | ⟨rfl, rfl⟩ <;> simp

end Sys2Proof.Machine
end

section
/-! PROOF. The machine's run of a DECODE is DECODE_MSG (spec/43_message_decoder.md R200 to R205,
spec/45_host_commands.md R242): the header, the sections record by record, and the completion. -/

namespace Sys2Proof.Machine

/-! Sequences of procedures. -/

theorem procThen_assoc {α β γ : Type} (p : Proc α) (f : α → Proc β) (k : β → Proc γ) :
    procThen (procThen p f) k = procThen p fun a => procThen (f a) k := by
  match p with
  | none => rfl
  | some (.ok a) => rfl
  | some (.err e) => rfl
  | some (.fault f) => rfl

theorem procThen_once {α β γ : Type} (r : Res α) (f : α → Proc β) (k : β → Proc γ) :
    procThen (once r f) k = once r fun a => procThen (f a) k :=
  procThen_assoc (some r) f k

/-! Runs. -/

/-- A run that answers a next state goes on from there. -/
theorem runSteps_add_of_next {j : Nat} {s t : State} (h : runSteps j s = .next t) (k : Nat) :
    runSteps (j + k) s = runSteps k t := by
  induction j generalizing s with
  | zero =>
    cases h
    rw [Nat.zero_add]
  | succ j ih =>
    cases hstep : step s with
    | next u =>
      rw [runSteps_succ_of_next hstep] at h
      rw [Nat.succ_add, runSteps_succ_of_next hstep, ih h]
    | fault f => simp [runSteps, hstep] at h
    | refused r => simp [runSteps, hstep] at h

/-- `u` is on the way of a DECODE that runs in `s`, with no host program left: what the scanner and the host can see of
`s` is as it was. -/
structure DecodeRunning (s u : State) : Prop where
  busy : u.phase = .busy
  host : u.host = []
  input : u.input = s.input
  obuf : u.obuf = s.obuf
  inLen : u.inLen = s.inLen
  outLen : u.outLen = s.outLen
  seen : u.seen = s.seen

/-- What DECODE's result makes of the state it comes to: completion with the message and the final CUR, the error entry,
or the end of the run in the fault. -/
def State.afterDecode (s : State) (r : Res (Message × Nat)) : Result :=
  s.decodeStep r fun mc => State.completeDecode { s with cur := mc.2 } mc.1

/-- From `u` on, the DECODE that runs in `s` comes to its end with the result of the procedure `p`, which has one. -/
def DecodeRuns (s : State) (p : Proc (Message × Nat)) (u : State) : Prop :=
  ∃ r k t, p = some r ∧ DecodeRunning s t ∧ runSteps k u = t.afterDecode r

theorem DecodeRunning.step_eq {s u : State} (hu : DecodeRunning s u) : step u = u.engine.result :=
  step_of_engineState (by simp [State.engineState, hu.busy, hu.host])

theorem DecodeRuns.of_step {s u v : State} {p : Proc (Message × Nat)} (h : step u = .next v)
    (hv : DecodeRuns s p v) : DecodeRuns s p u := by
  obtain ⟨r, k, t, hp, ht, hrun⟩ := hv
  exact ⟨r, k + 1, t, hp, ht, (runSteps_succ_of_next h k).trans hrun⟩

/-- A step that enters an error ends the run with it. -/
theorem DecodeRuns.of_raise {s u : State} {e : Err} (hu : DecodeRunning s u)
    (h : step u = .next (u.raise .decode e)) : DecodeRuns s (some (.err e)) u :=
  ⟨.err e, 1, u, rfl, hu, (runSteps_one u).trans h⟩

/-- A run that comes to the result `r` of a part of the procedure goes on with the rest, or ends with `r`'s error or
fault. -/
theorem DecodeRuns.of_run {α : Type} {s u v : State} {j : Nat} {r : Res α} {next : α → State}
    {k : α → Proc (Message × Nat)} (hrun : runSteps j u = v.decodeStep r next) (hv : DecodeRunning s v)
    (hk : ∀ a, DecodeRuns s (k a) (next a)) : DecodeRuns s (once r k) u := by
  cases r with
  | ok a =>
    obtain ⟨x, l, t, hx, ht, hl⟩ := hk a
    exact ⟨x, j + l, t, hx, ht, (runSteps_add_of_next hrun l).trans hl⟩
  | err e => exact ⟨.err e, j, v, rfl, hv, hrun⟩
  | fault f => exact ⟨.fault f, j, v, rfl, hv, hrun⟩

/-- A part of the procedure that is one step of the machine. -/
theorem DecodeRuns.of_engine {α : Type} {s u : State} {r : Res α} {next : α → State} {k : α → Proc (Message × Nat)}
    (hu : DecodeRunning s u) (h : u.engine.result = u.decodeStep r next) (hk : ∀ a, DecodeRuns s (k a) (next a)) :
    DecodeRuns s (once r k) u :=
  of_run ((runSteps_one u).trans (hu.step_eq.trans h)) hu hk

/-! The header. -/

/-- The count that the header holds for a section (R204); the header has no records. -/
def Header.count (h : Header) : Sect → Nat
  | .header => 0
  | .question => h.qd.toNat
  | .answer => h.an.toNat
  | .authority => h.ns.toNat
  | .additional => h.ar.toNat

/-- The message of which DEC_HEADER has read id and flags. -/
def Header.message (h : Header) : Message := { Message.blank with id := h.id, flags := h.flags }

/-- DECODE, with the header `h` read, is at the head of the section loop, before record `idx` of section `c`, which
begins at `cur`, and has built the message `d`. -/
structure Walking (s : State) (h : Header) (c : Sect) (idx cur : Nat) (d : Message) (u : State) : Prop
    extends DecodeRunning s u where
  qd : u.qd = h.qd
  an : u.an = h.an
  ns : u.ns = h.ns
  ar : u.ar = h.ar
  ctl : u.ctl = .walk
  sect : u.sect = c
  idx : u.idx = idx
  cur : u.cur = cur
  draft : u.draft = d

/-- The state after a field of the header was read (R201). -/
def State.headerRead (s : State) (f : HeaderField) (v : U16) : State :=
  { s.setHeader f v with cur := headerOffset f + 2, ctl := afterHeader f }

/-- Reading a header field touches only what DECODE owns. -/
theorem DecodeRunning.headerRead {s u : State} (hu : DecodeRunning s u) (f : HeaderField) (v : U16) :
    DecodeRunning s (u.headerRead f v) := by
  cases f <;> exact { hu with }

/-- A field of the header is read in one step (R201). -/
theorem DecodeRuns.of_headerField {s u : State} {f : HeaderField} {k : U16 → Proc (Message × Nat)}
    (hu : DecodeRunning s u) (hctl : u.ctl = .header f)
    (hk : ∀ v, DecodeRunning s (u.headerRead f v) → DecodeRuns s (k v) (u.headerRead f v)) :
    DecodeRuns s (once (rd16 s.input (headerOffset f) .hdrTrunc) k) u :=
  of_engine hu (by rw [State.engine, hctl, ← hu.input]; rfl) fun v => hk v (hu.headerRead f v)

/-- DEC_HEADER's six fields, read in order (R201). -/
theorem DecodeRuns.of_header {s u : State} {k : Header → Proc (Message × Nat)} (hu : DecodeRunning s u)
    (hctl : u.ctl = .header .id) (hsect : u.sect = .header) (hidx : u.idx = 0) (hdraft : u.draft = Message.blank)
    (hk : ∀ v h, Walking s h .header 0 12 h.message v → DecodeRuns s (k h) v) :
    DecodeRuns s (procThen (decHeader s.input) k) u := by
  simp only [decHeader, procThen_once]
  refine .of_headerField (f := .id) hu hctl fun id hu => .of_headerField (f := .flags) hu rfl fun flags hu => ?_
  refine .of_headerField (f := .qd) hu rfl fun qd hu => .of_headerField (f := .an) hu rfl fun an hu => ?_
  refine .of_headerField (f := .ns) hu rfl fun ns hu => .of_headerField (f := .ar) hu rfl fun ar hu => ?_
  refine hk _ ⟨id, flags, qd, an, ns, ar⟩ ?_
  constructor
  case toDecodeRunning => exact hu
  all_goals
    simp [State.headerRead, State.setHeader, headerOffset, afterHeader, Header.message, hsect, hidx, hdraft]

/-! Records. -/

/-- `s` on the way through a record: with other name registers, record registers and cursor. -/
def State.recordAt (s : State) (regs : NameRegs) (use : NameUse) (r : RecordRegs) (cur : Nat) (ctl : Ctl) : State :=
  { s with name := regs, use := use, recd := r, cur := cur, ctl := ctl }

/-- The state in which the section walker leaves `s`: at the first element of a record's owner name. -/
def State.ownerAt (s : State) : State := s.recordAt (NameRegs.start s.cur) .owner s.recd s.cur .name

section
variable {s u : State} {regs : NameRegs} {use : NameUse} {r : RecordRegs} {cur : Nat} (hu : DecodeRunning s u)
include hu

theorem DecodeRunning.recordAt (ctl : Ctl) : DecodeRunning s (u.recordAt regs use r cur ctl) := { hu with }

/-- A name at CUR runs to DEC_NAME's result, which its caller takes. -/
theorem DecodeRuns.of_name {k : DomainName × Nat → Proc (Message × Nat)}
    (hk : ∀ regs nm, DecodeRuns s (k nm) ((u.recordAt regs use r cur .name).returnName nm.1 nm.2)) :
    DecodeRuns s (procThen (decName s.input cur) k) (u.recordAt (NameRegs.start cur) use r cur .name) := by
  rw [← hu.input]
  obtain ⟨x, hx⟩ := exists_decName_eq_some u.input cur
  obtain ⟨j, regs, hrun⟩ := runSteps_decNameLoop (s := u.recordAt (NameRegs.start cur) use r cur .name)
    ⟨hu.busy, hu.host, rfl⟩ hx
  rw [hx]
  exact of_run hrun (hu.recordAt .name) (hk regs)

/-- The owner name goes to the record at hand; `first` is its first field (R202, R203). -/
theorem DecodeRuns.of_owner {first : Ctl} {k : DomainName × Nat → Proc (Message × Nat)}
    (hfirst : (if u.sect = .question then Ctl.qtype else .rtype) = first)
    (hk : ∀ regs nm, DecodeRuns s (k nm) (u.recordAt regs .owner { u.recd with name := nm.1 } nm.2 first)) :
    DecodeRuns s (procThen (decName s.input u.cur) k) u.ownerAt := by
  subst hfirst
  refine of_name hu fun regs nm => ?_
  rw [State.returnName_owner rfl]
  exact hk regs nm

/-- A 16-bit field of the record at CUR. -/
theorem DecodeRuns.of_field {ctl after : Ctl} {set : RecordRegs → U16 → RecordRegs} {k : U16 → Proc (Message × Nat)}
    (hstep : (u.recordAt regs use r cur ctl).engine = .act ((u.recordAt regs use r cur ctl).fieldStep set after))
    (hk : ∀ v, DecodeRuns s (k v) (u.recordAt regs use (set r v) (cur + 2) after)) :
    DecodeRuns s (once (rd16 s.input cur .fieldTrunc) k) (u.recordAt regs use r cur ctl) := by
  rw [← hu.input]
  exact of_engine (hu.recordAt ctl) (congrArg Fetched.result hstep) hk

/-- The TTL at CUR. -/
theorem DecodeRuns.of_ttl {k : U32 → Proc (Message × Nat)}
    (hk : ∀ v, DecodeRuns s (k v) (u.recordAt regs use { r with ttl := v } (cur + 4) .rdlength)) :
    DecodeRuns s (once (rd32 s.input cur .fieldTrunc) k) (u.recordAt regs use r cur .ttl) := by
  rw [← hu.input]
  exact of_engine (hu.recordAt .ttl) rfl hk

/-- The record's data at CUR, with which the record is finished (R180). -/
theorem DecodeRuns.of_rdata {k : RData × Nat → Proc (Message × Nat)}
    (hk : ∀ regs use d q, DecodeRuns s (k (d, q)) ((u.recordAt regs use r q .walk).finishRecord r.rtype d q)) :
    DecodeRuns s (procThen (decRdata s.input r.rtype r.rdlen.toNat cur) k) (u.recordAt regs use r cur .rdata) := by
  have hat := hu.recordAt (regs := regs) (use := use) (r := r) (cur := cur) .rdata
  have hstep : (u.recordAt regs use r cur .rdata).engine.result =
      exec (decodeRtype r.rtype) (u.recordAt regs use r cur .rdata) := rfl
  rw [decRdata]
  split_ifs with h5 h1
  · have hname : exec .rdCname (u.recordAt regs use r cur .rdata) =
        .next (u.recordAt (NameRegs.start cur) .cname r cur .name) := by
      rw [exec_rdCname, State.startCname, ← h5]
      rfl
    rw [h5] at hstep
    rw [procThen_assoc]
    refine .of_step (hat.step_eq.trans (hstep.trans hname)) (of_name hu fun regs nm => ?_)
    rw [State.returnName_cname rfl]
    exact hk regs .cname (.cname nm.1) nm.2
  · rw [procThen_once, ← hu.input]
    rw [h1] at hstep hk
    exact of_engine hat hstep fun b => hk regs use (.a b) _
  · rw [procThen_once, ← hu.input]
    rw [decodeRtype_opaque h1 h5] at hstep
    exact of_engine hat hstep fun b => hk regs use (.opaq b) _

end

/-- From the owner name of a record of section `c` on, the machine runs as the record procedure `dec` does, and the
record joins the section's list; `put` is the draft as a function of that list. -/
def DecodesRecord {α : Type} (s : State) (h : Header) (c : Sect) (dec : Nat → Proc (α × Nat))
    (put : List α → Message) : Prop :=
  ∀ (u : State) (idx cur : Nat) (done : List α) (k : α × Nat → Proc (Message × Nat)),
    Walking s h c idx cur (put done) u →
    (∀ v x q, Walking s h c (idx + 1) q (put (done ++ [x])) v → DecodeRuns s (k (x, q)) v) →
    DecodeRuns s (procThen (dec cur) k) u.ownerAt

/-- DEC_QUESTION (R202). -/
theorem decodesQuestion (s : State) (h : Header) (m : Message) :
    DecodesRecord s h .question (decQuestion s.input) fun qs => { m with questions := qs } := by
  intro u idx cur done k hw hk
  have hu := hw.toDecodeRunning
  obtain rfl := hw.cur
  simp only [decQuestion, procThen_once, procThen_assoc]
  refine .of_owner hu (if_pos hw.sect) fun regs nm => .of_field hu rfl fun qt => ?_
  rw [← hu.input]
  refine .of_engine (hu.recordAt .qclass) rfl fun qc => ?_
  refine hk _ ⟨nm.1, qt, qc⟩ _ ?_
  exact { hw with ctl := rfl, idx := congrArg (· + 1) hw.idx, cur := rfl, draft := by simp [State.recordAt, hw.draft] }

/-- DEC_RR (R203), in the sections that hold resource records. -/
theorem decodesRecord {s : State} {h : Header} {c : Sect} {put : List ResourceRecord → Message} (hc : c ≠ .question)
    (hput : ∀ rs r, (put rs).addRecord c r = put (rs ++ [r])) : DecodesRecord s h c (decRecord s.input) put := by
  intro u idx cur done k hw hk
  have hu := hw.toDecodeRunning
  obtain rfl := hw.cur
  simp only [decRecord, procThen_once, procThen_assoc]
  refine .of_owner hu (if_neg (hw.sect ▸ hc)) fun regs nm => .of_field hu rfl fun t => .of_field hu rfl fun cl => ?_
  refine .of_ttl hu fun ttl => .of_field hu rfl fun rl => ?_
  refine .of_rdata (r := ⟨nm.1, t, cl, ttl, rl⟩) hu fun regs use d q => ?_
  refine hk _ ⟨nm.1, t, cl, ttl, d⟩ _ ?_
  exact { hw with
    ctl := rfl, idx := congrArg (· + 1) hw.idx, cur := rfl, draft := by rw [← hput, ← hw.draft, ← hw.sect]; rfl }

/-! Sections. -/

section
variable {s u : State} {h : Header} {c : Sect} {idx cur : Nat}

/-- The step at the head of the section loop (R204, R205). -/
theorem Walking.step_eq {d : Message} (hw : Walking s h c idx cur d u) : step u =
    if idx < h.count c then
      if within (idx + 1) s.input.params.recCap then .next u.ownerAt
      else .next (u.raise .decode (.capacity .records cur))
    else .next (u.leaveSection .decodeDone) := by
  have hcount : u.sectCount = h.count c := by
    rw [State.sectCount, hw.sect, hw.qd, hw.an, hw.ns, hw.ar]
    cases c <;> rfl
  rw [hw.toDecodeRunning.step_eq, State.engine, hw.ctl, ← hw.input, ← hcount, ← hw.idx, ← hw.cur]
  rfl

/-- DEC_SECTION from record `idx` on, with `left` records to go (R204, R205). -/
theorem DecodeRuns.of_section {α : Type} {dec : Nat → Proc (α × Nat)} {put : List α → Message}
    (hdec : DecodesRecord s h c dec put) {left : Nat} {done : List α} {k : List α × Nat → Proc (Message × Nat)}
    (hw : Walking s h c idx cur (put done) u) (hleft : idx + left = h.count c)
    (hk : ∀ v xs q, Walking s h c (h.count c) q (put (done ++ xs)) v → DecodeRuns s (k (xs, q)) v) :
    DecodeRuns s (procThen (decSection s.input dec left idx cur) k) u := by
  have hstep := hw.step_eq
  induction left generalizing idx cur done k u with
  | zero => exact hk u [] cur (by rw [← hleft, List.append_nil]; exact hw)
  | succ left ih =>
    rw [if_pos (by omega)] at hstep
    rw [decSection]
    split_ifs at hstep ⊢
    · simp only [procThen_assoc, procThen_ok]
      refine .of_step hstep (hdec u idx cur done _ hw fun v x q hv => ?_)
      refine ih hv (by omega) (fun w xs p hend => ?_) hv.step_eq
      rw [List.append_assoc] at hend
      exact hk w (x :: xs) p hend
    · exact .of_raise hw.toDecodeRunning hstep

/-- At the end of a section that another follows, DECODE goes on with that one's first record. -/
theorem DecodeRuns.of_nextSection {α : Type} {c' : Sect} {dec : Nat → Proc (α × Nat)} {put : List α → Message}
    (hnext : nextSect c = some c') (hdec : DecodesRecord s h c' dec put) {k : List α × Nat → Proc (Message × Nat)}
    (hw : Walking s h c (h.count c) cur (put []) u)
    (hk : ∀ v xs q, Walking s h c' (h.count c') q (put xs) v → DecodeRuns s (k (xs, q)) v) :
    DecodeRuns s (procThen (decSection s.input dec (h.count c') 0 cur) k) u := by
  have hstep : step u = .next { u with sect := c', idx := 0 } := by
    rw [hw.step_eq, if_neg (Nat.lt_irrefl _), State.leaveSection, hw.sect, hnext]
  have hfirst : Walking s h c' 0 cur (put []) { u with sect := c', idx := 0 } := { hw with sect := rfl, idx := rfl }
  exact .of_step hstep (of_section hdec hfirst (Nat.zero_add _) hk)

/-- At the end of the last section DECODE completes with the message built. -/
theorem DecodeRuns.of_lastSection {m : Message} (hlast : nextSect c = none)
    (hw : Walking s h c (h.count c) cur m u) : DecodeRuns s (some (.ok (m, cur))) u := by
  have hstep : step u = .next { u with ctl := .decodeDone } := by
    rw [hw.step_eq, if_neg (Nat.lt_irrefl _), State.leaveSection, hw.sect, hlast]
  have hdone : DecodeRunning s { u with ctl := .decodeDone } := { hw.toDecodeRunning with }
  refine .of_step hstep ⟨.ok (m, cur), 1, _, rfl, hdone, ?_⟩
  rw [runSteps_one, hdone.step_eq, ← hw.draft, ← hw.cur]
  rfl

end

/-! The command. -/

/-- DECODE_MSG: the header, then the four sections (R200). -/
theorem DecodeRuns.of_decodeMsg {s u : State} (hu : DecodeRunning s u) (hctl : u.ctl = .header .id)
    (hsect : u.sect = .header) (hidx : u.idx = 0) (hdraft : u.draft = Message.blank) :
    DecodeRuns s (decodeMsg s.input) u := by
  refine of_header hu hctl hsect hidx hdraft fun u h hw => ?_
  refine of_nextSection (c := .header) rfl (decodesQuestion s h h.message) hw fun u qs q hw => ?_
  refine of_nextSection (c := .question) (put := fun rs => ⟨h.id, h.flags, qs, rs, [], []⟩) rfl
    (decodesRecord (by decide) fun _ _ => rfl) hw fun u ans q hw => ?_
  refine of_nextSection (c := .answer) (put := fun rs => ⟨h.id, h.flags, qs, ans, rs, []⟩) rfl
    (decodesRecord (by decide) fun _ _ => rfl) hw fun u auth q hw => ?_
  refine of_nextSection (c := .authority) (put := fun rs => ⟨h.id, h.flags, qs, ans, auth, rs⟩) rfl
    (decodesRecord (by decide) fun _ _ => rfl) hw fun u add q hw => ?_
  exact of_lastSection rfl hw

/-- From its acceptance on, DECODE runs to the result of the decode procedure. -/
theorem DecodeRuns.of_accepted {s : State} (hh : s.host = []) :
    DecodeRuns s.acceptDecode (decodeResult s.acceptDecode.input) s.acceptDecode := by
  have hs : DecodeRunning s.acceptDecode s.acceptDecode := ⟨rfl, hh, rfl, rfl, rfl, rfl, rfl⟩
  have hstep : step s.acceptDecode =
      if s.acceptDecode.input.params.ibufCap < s.acceptDecode.input.len then
        .next (s.acceptDecode.raise .decode (.capacity .ibuf 0))
      else .next { s.acceptDecode with ctl := .header .id } :=
    hs.step_eq
  rw [decodeResult]
  split_ifs at hstep ⊢
  · exact of_raise hs hstep
  · exact of_step hstep (of_decodeMsg { hs with } rfl rfl rfl rfl)

/-- Settles O41: the machine's steps are those of the decode procedures: header, sections, records and names. -/
theorem decodeCommandRunsToItsResult : Obligations.DecodeCommandRunsToItsResult := by
  intro s x hp hh
  have haccept : exec (.cmdDecode x) s = .next s.acceptDecode := State.whenIdle_idle hp _
  obtain ⟨r, k, t, hr, ht, hrun⟩ := DecodeRuns.of_accepted hh
  have hibuf : t.ibuf = s.ibuf := congrArg Input.ibuf ht.input
  have hparams : t.params = s.params := congrArg Input.params ht.input
  have hhost : t.host = s.host := ht.host.trans hh.symm
  refine ⟨k, s.acceptDecode, haccept, rfl, rfl, rfl, ?_⟩
  rw [show decodeResult { ibuf := s.ibuf, len := s.inLen.toNat, params := s.params } = some r from hr]
  cases r with
  | fault f => exact hrun
  | err e => exact ⟨_, hrun, rfl, rfl, rfl, rfl, hibuf, ht.obuf, ht.inLen, ht.outLen, hparams, hhost, ht.seen⟩
  | ok mc => exact ⟨_, hrun, rfl, rfl, rfl, rfl, rfl, hibuf, ht.obuf, ht.inLen, ht.outLen, hparams, hhost, ht.seen⟩

end Sys2Proof.Machine
end

section
/-! PROOF. Exceptions (spec/60_exceptions.md): the errors each command can raise, the state while IDLE, and error
entry. -/

namespace Sys2Proof.Machine

/-! The errors of DECODE (R260, R266). -/

/-- An error DECODE may end with: MALFORMED_MESSAGE or CAPACITY, at an offset at most LEN. -/
def Err.FitsDecode (e : Input) (x : Err) : Prop := errPosition x ≤ e.len ∧ (errKind x = 1#4 ∨ errKind x = 3#4)

theorem fitsDecode_malformed {e : Input} {a : Nat} (h : a ≤ e.len) (why : MalReason) :
    (Err.malformed why a).FitsDecode e := ⟨h, .inl rfl⟩

theorem fitsDecode_capacity {e : Input} {a : Nat} (h : a ≤ e.len) (why : CapReason) :
    (Err.capacity why a).FitsDecode e := ⟨h, .inr rfl⟩

/-- The procedure raises only errors that fit DECODE. -/
def ErrorsFitDecode {α : Type} (e : Input) (r : Proc α) : Prop := ∀ x, r = some (.err x) → x.FitsDecode e

theorem ErrorsFitDecode.of_ok {α : Type} (e : Input) (a : α) : ErrorsFitDecode e (some (.ok a)) :=
  fun _ h => by cases h

theorem ErrorsFitDecode.of_err {e : Input} {x : Err} (h : x.FitsDecode e) (α : Type) :
    ErrorsFitDecode e (some (.err x) : Proc α) :=
  fun _ hx => by cases hx; exact h

/-- A sequence raises the first procedure's errors, and those of the second after a value of the first. -/
theorem ErrorsFitDecode.procThen {α β : Type} {e : Input} {r : Proc α} {k : α → Proc β} (hr : ErrorsFitDecode e r)
    (hk : ∀ a, r = some (.ok a) → ErrorsFitDecode e (k a)) : ErrorsFitDecode e (procThen r k) := by
  intro x h
  match r, h with
  | some (.ok a), h => exact hk a rfl x h
  | some (.err _), h =>
    cases h
    exact hr x rfl

theorem ErrorsFitDecode.once {α β : Type} {e : Input} {r : Res α} {k : α → Proc β}
    (hr : ErrorsFitDecode e (some r)) (hk : ∀ a, r = .ok a → ErrorsFitDecode e (k a)) :
    ErrorsFitDecode e (once r k) :=
  hr.procThen fun a ha => hk a (Option.some.inj ha)

/-! The scanner and the element steps raise their errors where they stand. -/

section
variable {e : Input}

theorem rdSlice_errorsFit {a : Nat} (h : a ≤ e.len) (n : Nat) (why : MalReason) :
    ErrorsFitDecode e (some (rdSlice e a n why)) := by
  intro x hx
  obtain ⟨-, rfl⟩ := rdSlice_eq_err (Option.some.inj hx)
  exact fitsDecode_malformed h why

theorem rd8_errorsFit {a : Nat} (h : a ≤ e.len) (why : MalReason) : ErrorsFitDecode e (some (rd8 e a why)) :=
  fun x hx => rdSlice_errorsFit h 1 why x (congrArg some (rd8_eq_iff.mp (Option.some.inj hx)))

theorem rd16_errorsFit {a : Nat} (h : a ≤ e.len) (why : MalReason) : ErrorsFitDecode e (some (rd16 e a why)) :=
  fun x hx => rdSlice_errorsFit h 2 why x (congrArg some (rd16_eq_iff.mp (Option.some.inj hx)))

theorem rd32_errorsFit {a : Nat} (h : a ≤ e.len) (why : MalReason) : ErrorsFitDecode e (some (rd32 e a why)) :=
  fun x hx => rdSlice_errorsFit h 4 why x (congrArg some (rd32_eq_iff.mp (Option.some.inj hx)))

/-- A record body's two errors are at its first byte. -/
theorem readBody_errorsFit {p : Nat} (h : p ≤ e.len) (rdlen : Nat) :
    ErrorsFitDecode e (some (readBody e p rdlen)) := by
  intro x hx
  rcases Res.andThen_eq_err (Option.some.inj hx) with hs | ⟨b, -, hcap⟩
  · exact rdSlice_errorsFit h _ _ x (congrArg some hs)
  · split_ifs at hcap
    cases hcap
    exact fitsDecode_capacity h _

/-- A label step's errors are at the label's first byte or at its tag. -/
theorem labelStep_errorsFit {n : NameRegs} (h : n.p < e.len) (size : Nat) :
    ErrorsFitDecode e (some (labelStep e n size)) := by
  intro x hx
  rcases Res.andThen_eq_err (Option.some.inj hx) with hs | ⟨b, -, hcap⟩
  · exact rdSlice_errorsFit h _ _ x (congrArg some hs)
  · split_ifs at hcap
    cases hcap
    exact fitsDecode_capacity h.le _

theorem extStep_errorsFit {n : NameRegs} (h : n.p < e.len) (tag : Nat) :
    ErrorsFitDecode e (some (extStep e n tag)) := by
  unfold extStep
  cases e.params.extTagPolicy with
  | reject => exact .of_err (fitsDecode_malformed h.le _) _
  | asLength => exact labelStep_errorsFit h tag

theorem pointerStep_errorsFit {n : NameRegs} (h : n.p < e.len) (off : Nat) :
    ErrorsFitDecode e (some (pointerStep e n off)) := by
  unfold pointerStep
  split_ifs
  · exact .of_err (fitsDecode_malformed h.le _) _
  · exact .of_ok e _
  · exact .of_err (fitsDecode_malformed h.le _) _

/-! The decode procedures. -/

/-- P never passes LEN, so DEC_NAME's loop raises no error past it. -/
theorem decNameLoop_errorsFit {fuel : Nat} {n : NameRegs} (h : n.p ≤ e.len) :
    ErrorsFitDecode e (decNameLoop e fuel n) := by
  induction fuel generalizing n with
  | zero => exact fun _ hx => by cases hx
  | succ fuel ih =>
    refine (rd8_errorsFit h _).once fun t ht => ?_
    have hp : n.p < e.len := (rd8_eq_ok ht).1
    have goesOn {n' : NameRegs} (hn : NameElement e n n') : ErrorsFitDecode e (decNameLoop e fuel n') :=
      ih (hn.elementsLeft_lt hp).1
    split_ifs with h0 hptr hlab
    · exact .of_ok e _
    · exact (rd8_errorsFit hp _).once fun b1 _ =>
        (pointerStep_errorsFit hp _).once fun n' hn => goesOn (.pointer _ hn)
    · exact (labelStep_errorsFit hp _).once fun n' hn => goesOn (.label t h0 hlab hn)
    · exact (extStep_errorsFit hp _).once fun n' hn => goesOn (.ext t hlab hptr hn)

theorem decName_errorsFit {p : Nat} (h : p ≤ e.len) : ErrorsFitDecode e (decName e p) := decNameLoop_errorsFit h

theorem decRdata_errorsFit {p : Nat} (h : p ≤ e.len) (rtype : U16) (rdlen : Nat) :
    ErrorsFitDecode e (decRdata e rtype rdlen p) := by
  unfold decRdata
  split_ifs
  · exact (decName_errorsFit h).procThen fun _ _ => .of_ok e _
  · exact (readBody_errorsFit h rdlen).once fun _ _ => .of_ok e _
  · exact (readBody_errorsFit h rdlen).once fun _ _ => .of_ok e _

/-- A 16-bit field is read inside LEN, so what follows it begins inside LEN. -/
theorem ErrorsFitDecode.field16 {β : Type} {a : Nat} {why : MalReason} {k : U16 → Proc β} (h : a ≤ e.len)
    (hk : ∀ v, a + 2 ≤ e.len → ErrorsFitDecode e (k v)) : ErrorsFitDecode e (Machine.once (rd16 e a why) k) :=
  (rd16_errorsFit h why).once fun v hv => hk v (rd16_eq_ok hv).1

theorem ErrorsFitDecode.field32 {β : Type} {a : Nat} {why : MalReason} {k : U32 → Proc β} (h : a ≤ e.len)
    (hk : ∀ v, a + 4 ≤ e.len → ErrorsFitDecode e (k v)) : ErrorsFitDecode e (Machine.once (rd32 e a why) k) :=
  (rd32_errorsFit h why).once fun v hv => hk v (rd32_eq_ok hv)

/-- A name ends inside LEN (R157), so what follows it begins inside LEN. -/
theorem ErrorsFitDecode.name {β : Type} {p : Nat} {k : DomainName × Nat → Proc β} (h : p ≤ e.len)
    (hk : ∀ r, r.2 ≤ e.len → ErrorsFitDecode e (k r)) : ErrorsFitDecode e (Machine.procThen (decName e p) k) :=
  (decName_errorsFit h).procThen fun r hr => hk r (nameDecodeAdvancesInsideLen _ _ _ _ hr).2

theorem decHeader_errorsFit : ErrorsFitDecode e (decHeader e) :=
  .field16 (Nat.zero_le _) fun _ h => .field16 h fun _ h => .field16 h fun _ h => .field16 h fun _ h =>
    .field16 h fun _ h => .field16 h fun _ _ => .of_ok e _

theorem decQuestion_errorsFit {p : Nat} (h : p ≤ e.len) : ErrorsFitDecode e (decQuestion e p) :=
  .name h fun _ h => .field16 h fun _ h => .field16 h fun _ _ => .of_ok e _

theorem decRecord_errorsFit {p : Nat} (h : p ≤ e.len) : ErrorsFitDecode e (decRecord e p) :=
  .name h fun _ h => .field16 h fun _ h => .field16 h fun _ h => .field32 h fun _ h => .field16 h fun _ h =>
    (decRdata_errorsFit h _ _).procThen fun _ _ => .of_ok e _

theorem decQuestion_end_le {p : Nat} {r : QuestionRecord × Nat} (h : decQuestion e p = some (.ok r)) :
    r.2 ≤ e.len := by
  obtain ⟨q, -, -, hclass, hend⟩ := decQuestion_eq_ok h
  exact hend ▸ (rd16_eq_ok hclass).1

theorem decRecord_end_le {p : Nat} {r : ResourceRecord × Nat} (h : decRecord e p = some (.ok r)) :
    r.2 ≤ e.len := by
  obtain ⟨q, rdlen, -, -, -, -, -, hdata⟩ := decRecord_eq_ok h
  exact decRdata_end_le hdata

/-- Each record begins inside LEN, where the one before it ends; REC_CAP's error is at that offset. -/
theorem decSection_errorsFit {α : Type} {dec : Nat → Proc (α × Nat)} {left idx cur : Nat}
    (hdec : ∀ {p}, p ≤ e.len → ErrorsFitDecode e (dec p)) (hend : ∀ {p r}, dec p = some (.ok r) → r.2 ≤ e.len)
    (hcur : cur ≤ e.len) : ErrorsFitDecode e (decSection e dec left idx cur) := by
  induction left generalizing idx cur with
  | zero => exact .of_ok e _
  | succ left ih =>
    unfold decSection
    split_ifs
    · exact (hdec hcur).procThen fun r hr => (ih (hend hr)).procThen fun _ _ => .of_ok e _
    · exact .of_err (fitsDecode_capacity hcur _) _

/-- A section that begins inside LEN, and what follows it. -/
theorem ErrorsFitDecode.walk {α β : Type} {dec : Nat → Proc (α × Nat)} {left cur : Nat}
    {k : List α × Nat → Proc β} (hdec : ∀ {p}, p ≤ e.len → ErrorsFitDecode e (dec p))
    (hend : ∀ {p r}, dec p = some (.ok r) → r.2 ≤ e.len) (hcur : cur ≤ e.len)
    (hk : ∀ rs, rs.2 ≤ e.len → ErrorsFitDecode e (k rs)) :
    ErrorsFitDecode e (Machine.procThen (decSection e dec left 0 cur) k) :=
  (decSection_errorsFit hdec hend hcur).procThen fun rs hrs =>
    hk rs (decSection_end_le (fun _ _ h => hend h) hcur hrs)

theorem decodeMsg_errorsFit : ErrorsFitDecode e (decodeMsg e) := by
  refine decHeader_errorsFit.procThen fun hd hhd => ?_
  obtain ⟨-, -, -, -, -, har⟩ := decHeader_eq_ok hhd
  exact .walk decQuestion_errorsFit decQuestion_end_le (rd16_eq_ok har).1 fun _ h =>
    .walk decRecord_errorsFit decRecord_end_le h fun _ h =>
    .walk decRecord_errorsFit decRecord_end_le h fun _ h =>
    .walk decRecord_errorsFit decRecord_end_le h fun _ _ => .of_ok e _

theorem decodeResult_errorsFit : ErrorsFitDecode e (decodeResult e) := by
  unfold decodeResult
  split_ifs
  · exact .of_err (fitsDecode_capacity (Nat.zero_le _) _) _
  · exact decodeMsg_errorsFit

end

/-! The errors of ENCODE (R260). -/

/-- The answer is no error but INVALID_NAME or CAPACITY. -/
def ErrorsFitEncode {α : Type} (r : Except Err α) : Prop := ∀ x, r = .error x → errKind x = 2#4 ∨ errKind x = 3#4

theorem ErrorsFitEncode.of_ok {α : Type} (a : α) : ErrorsFitEncode (.ok a) := fun _ h => by cases h

theorem ErrorsFitEncode.of_capacity {α : Type} (why : CapReason) (pos : Nat) :
    ErrorsFitEncode (.error (.capacity why pos) : Except Err α) :=
  fun _ h => by cases h; exact .inr rfl

/-- The caller raises the same error (spec/00_scope.md R18). -/
theorem ErrorsFitEncode.same {α β : Type} {r : Except Err α} {y : Err} (hr : ErrorsFitEncode r) (h : r = .error y) :
    ErrorsFitEncode (.error y : Except Err β) :=
  fun x hx => hr x (by cases hx; exact h)

/-- A name raises only its own error, for a label that is too long. -/
theorem encName_errorsFit (max : LabelEncMax) (n : DomainName) (base : Nat) :
    ErrorsFitEncode (encName max n base) := by
  induction n generalizing base with
  | nil => exact .of_ok _
  | cons l n ih =>
    unfold encName
    split_ifs
    · exact fun _ h => by cases h; exact .inl rfl
    · split
      · next hn => exact (ih _).same hn
      · exact .of_ok _

theorem encRdata_errorsFit (max : LabelEncMax) (rd : RData) (base : Nat) :
    ErrorsFitEncode (encRdata max rd base) := by
  cases rd with
  | cname n => exact encName_errorsFit max n base
  | a b => exact .of_ok b
  | opaq b => exact .of_ok b

theorem encQuestion_errorsFit (max : LabelEncMax) (q : QuestionRecord) (base : Nat) :
    ErrorsFitEncode (encQuestion max q base) := by
  unfold encQuestion
  split
  · next hn => exact (encName_errorsFit max q.name base).same hn
  · exact .of_ok _

theorem encRecord_errorsFit (max : LabelEncMax) (r : ResourceRecord) (base : Nat) :
    ErrorsFitEncode (encRecord max r base) := by
  unfold encRecord
  split
  · next hn => exact (encName_errorsFit max r.name base).same hn
  · split
    · next hd => exact (encRdata_errorsFit max r.rdata _).same hd
    · split_ifs
      · exact .of_capacity _ _
      · exact .of_ok _

theorem checkedHeader_errorsFit (m : Message) : ErrorsFitEncode (checkedHeader m) := by
  unfold checkedHeader checkCounts
  split_ifs
  · exact .of_capacity _ _
  · exact .of_capacity _ _
  · exact .of_capacity _ _
  · exact .of_capacity _ _
  · exact .of_ok _

theorem encodeAll_errorsFit {fs : List Encoder} (hfs : ∀ f ∈ fs, ∀ base, ErrorsFitEncode (f base)) (out : Bytes) :
    ErrorsFitEncode (encodeAll fs out) := by
  induction fs generalizing out with
  | nil => exact .of_ok out
  | cons f fs ih =>
    obtain ⟨hf, hfs⟩ := List.forall_mem_cons.mp hfs
    rw [encodeAll_cons]
    cases hb : f out.length with
    | error y => exact (hf _).same hb
    | ok b => exact ih hfs (out ++ b)

theorem encCore_errorsFit (max : LabelEncMax) (m : Message) : ErrorsFitEncode (encCore max m) := by
  have hfs : ∀ f ∈ encodersAfter max m .header, ∀ base, ErrorsFitEncode (f base) := by
    simp only [encodersAfter, sectionEncoders, List.forall_mem_append, List.forall_mem_map]
    exact ⟨fun q _ => encQuestion_errorsFit max q, fun r _ => encRecord_errorsFit max r,
      fun r _ => encRecord_errorsFit max r, fun r _ => encRecord_errorsFit max r, List.forall_mem_nil _⟩
  rw [encCore_eq]
  cases hh : checkedHeader m with
  | error y => exact (checkedHeader_errorsFit m).same hh
  | ok b => exact encodeAll_errorsFit hfs _

/-- R226 adds only Capacity(OBUF) to the errors of ENC_CORE, and reports no position past OBUF_CAP. -/
theorem fitOutput_eq_error {p : Params} {r : Except Err Bytes} {x : Err} (h : fitOutput p r = .error x) :
    errPosition x ≤ p.obufCap ∧ (r = .error x ∨ x = obufFull p) := by
  cases r with
  | ok b =>
    simp only [fitOutput] at h
    split_ifs at h
    cases h
    exact ⟨Nat.le_refl _, .inr rfl⟩
  | error y =>
    cases h
    unfold reported
    split_ifs with hle
    · exact ⟨hle, .inl rfl⟩
    · exact ⟨Nat.le_refl _, .inr rfl⟩

/-- Settles O26: DECODE raises each error where it stands, inside LEN; ENCODE raises INVALID_NAME for a label and
CAPACITY for the rest, and R226 bounds the position. -/
theorem errorsFitTheirCommand : Obligations.ErrorsFitTheirCommand := by
  refine ⟨fun e x h => decodeResult_errorsFit x h, fun p m x h => ?_⟩
  obtain ⟨hpos, hcore | rfl⟩ := fitOutput_eq_error h
  · exact ⟨hpos, encCore_errorsFit _ _ x hcore⟩
  · exact ⟨hpos, .inr rfl⟩

/-! The state while IDLE (R278). -/

/-- A step that gives DNSC the turn in a state that is IDLE leaves that state. -/
theorem step_of_idleTurn {s u : State} (hfetch : fetch s = u.dnscTurn) (hu : u.phase = .idle) : step s = .next u := by
  have hturn : u.dnscTurn = .act (.next u) := by rw [State.dnscTurn, hu]
  rw [step_result, hfetch, hturn, Fetched.result]

/-- Settles O7: with no host event, or after a `pass`, it is the turn of DNSC, which is IDLE. -/
theorem idleChangesNothing : Obligations.IdleChangesNothing := fun s hp =>
  ⟨fun hh => step_of_idleTurn (by rw [fetch, hh]) hp,
    fun rest hh => step_of_idleTurn (u := { s with host := rest }) (by rw [fetch, hh]) hp⟩

/-! Error entry (R260 to R264, R266, R269). -/

/-- A field put in above the bits of a word adds up with it. -/
theorem or_shiftLeft_toNat {x y : U32} {n : Nat} (hx : x.toNat < 2 ^ n) (hy : y.toNat * 2 ^ n < 2 ^ 32) :
    (x ||| y <<< n).toNat = y.toNat * 2 ^ n + x.toNat := by
  have hshift : (y <<< n).toNat = y.toNat <<< n := by
    rw [BitVec.toNat_shiftLeft, Nat.shiftLeft_eq, Nat.mod_eq_of_lt hy]
  rw [BitVec.toNat_or, hshift, Nat.or_comm, ← Nat.shiftLeft_add_eq_or_of_lt hx, Nat.shiftLeft_eq]

/-- STATUS of a failed command: DONE and ERR, the kind in bits 7:4, the reason in bits 15:8. -/
theorem statusFailure_fields (e : Err) :
    statusFailure e = 0x6#32 ||| ((errKind e).setWidth 32 <<< 4) ||| ((errReason e).setWidth 32 <<< 8) := by
  have hkind : ((errKind e).setWidth 32).toNat = (errKind e).toNat := BitVec.toNat_setWidth_of_le (by decide)
  have hreason : ((errReason e).setWidth 32).toNat = (errReason e).toNat := BitVec.toNat_setWidth_of_le (by decide)
  have hk := (errKind e).isLt
  have hr := (errReason e).isLt
  have hlow : (0x6#32 ||| (errKind e).setWidth 32 <<< 4).toNat = (errKind e).toNat * 16 + 6 := by
    rw [or_shiftLeft_toNat (by decide) (by omega), hkind]
    rfl
  apply BitVec.eq_of_toNat_eq
  rw [statusFailure_toNat, or_shiftLeft_toNat (by omega) (by omega), hreason, hlow]
  omega

/-- Settles O25: error entry by its definition, and the tables' codes kind by kind and reason by reason. -/
theorem errorEntryWritesStatusAndDropsResults : Obligations.ErrorEntryWritesStatusAndDropsResults := by
  refine ⟨fun s e => ?entry, ?kinds, fun p => ?reasons⟩
  case entry => exact ⟨statusFailure_fields e, rfl, rfl⟩
  case kinds => exact ⟨fun _ _ => ⟨rfl, rfl⟩, fun _ _ => ⟨rfl, rfl⟩, fun _ _ => ⟨rfl, rfl⟩, fun _ => ⟨rfl, rfl, rfl⟩⟩
  case reasons => exact ⟨⟨rfl, rfl, rfl, rfl, rfl, rfl, rfl⟩, rfl, ⟨rfl, rfl, rfl, rfl, rfl, rfl, rfl⟩⟩

end Sys2Proof.Machine
end

section
/-! PROOF. The parameters are the instance's: no step writes them (spec/70_reset_and_hazards.md R290). -/

namespace Sys2Proof.Machine

/-- Settles O50: an internal step and error entry are known to leave the parameters, the host's accesses write other
registers, and reset starts the same instance again. -/
theorem parametersNeverChange : Obligations.ParametersNeverChange := by
  intro s t hstep
  cases step_next hstep with
  | engine u hu hm => exact (Invisible.of_engineState hu hm).params
  | hostOnly tl ht => rw [ht]
  | observed tl v ht => rw [ht, State.observe_params]
  | command v tl _ _ _ ht =>
    rcases ht with ht | ht | ⟨o, ht⟩
    · rw [ht, State.acceptDecode_params]
    · rw [ht, State.acceptEncode_params]
    · rw [ht, State.raise_params]
  | inLen tl v ht => rw [ht]
  | ibuf _ _ tl o b _ _ _ _ ht => rw [ht]
  | msgWritten tl m ht => rw [ht]
  | reset tl _ ht => rw [ht, State.resetEvent_params]

end Sys2Proof.Machine
end
